-- ==== Sys2Proof/Word.lean ====
section
/-! DEFINITION. The word types of the libhash SHA engine.

Every value of the engine is an unsigned bit vector (spec/00_scope.md R7: "All arithmetic is unsigned, modulo 2^32 or
2^64"). The arithmetic on words (rotates, shifts, byte packing) stands in Machine/WordOps.lean. -/

namespace Sys2Proof

/-- A byte, the spec's `u8`: an element of the message space `MSG` and of the block buffer `M`. -/
abbrev Byte := BitVec 8

/-- A word of the 32-bit family, and the width of every host register (R31). -/
abbrev Word32 := BitVec 32

/-- A word of the 64-bit family, and the physical width of each `H[i]`, `V[i]`, `W[t]` (R23). -/
abbrev Word64 := BitVec 64

end Sys2Proof
end

