-- ==== Sys2Proof/Syntax.lean ====
section
/-! DEFINITION. The instructions of the libhash SHA engine: the five host commands (format H, spec/30_encoding.md R92)
and the fourteen micro-operations of the sequencer (format S, R96).

A command carries no operand beyond its variant, which its name fixes (R93). A micro-operation carries the two fields of
the step word that select it and parameterise it: the latched variant `VAR` and the round index `T` (R95). A field that a
row of R96 fixes is no operand: the SHA-1 rows have no variant, the rows with `T = 0` no index. -/

namespace Sys2Proof

/-- The five variants of R1, in the row order of the variant table (R4), which is the order of their codes 0 to 4 (R28). -/
inductive Variant where
  | sha1
  | sha224
  | sha256
  | sha384
  | sha512
  deriving DecidableEq, Repr

/-- One constructor per row of spec/opcode_table.json. -/
inductive Instr where
  /-- `DIGEST.SHA1`, R121. -/
  | digestSha1
  /-- `DIGEST.SHA224`, R122. -/
  | digestSha224
  /-- `DIGEST.SHA256`, R123. -/
  | digestSha256
  /-- `DIGEST.SHA384`, R124. -/
  | digestSha384
  /-- `DIGEST.SHA512`, R125. -/
  | digestSha512
  /-- `PADBLK`, R134. -/
  | padblk (v : Variant)
  /-- `WLD32`, R150. -/
  | wld32 (v : Variant) (t : BitVec 7)
  /-- `WLD64`, R151. -/
  | wld64 (v : Variant) (t : BitVec 7)
  /-- `WEXP.SHA1`, R152. -/
  | wexpSha1 (t : BitVec 7)
  /-- `WEXP.S256`, R153. -/
  | wexpS256 (v : Variant) (t : BitVec 7)
  /-- `WEXP.S512`, R154. -/
  | wexpS512 (v : Variant) (t : BitVec 7)
  /-- `LDV`, R170. -/
  | ldv (v : Variant)
  /-- `RND.SHA1.CH`, R171. -/
  | rndSha1Ch (t : BitVec 7)
  /-- `RND.SHA1.PAR1`, R172. -/
  | rndSha1Par1 (t : BitVec 7)
  /-- `RND.SHA1.MAJ`, R173. -/
  | rndSha1Maj (t : BitVec 7)
  /-- `RND.SHA1.PAR2`, R174. -/
  | rndSha1Par2 (t : BitVec 7)
  /-- `RND.S256`, R175. -/
  | rndS256 (v : Variant) (t : BitVec 7)
  /-- `RND.S512`, R176. -/
  | rndS512 (v : Variant) (t : BitVec 7)
  /-- `ACC`, R200. -/
  | acc (v : Variant)
  deriving DecidableEq, Repr

end Sys2Proof
end

