-- ==== Sys2Proof/WellFormed.lean ====
section
/-! DEFINITION. Well-formed instructions: the operand ranges of spec/30_encoding.md R96, row by row.

An instruction is well formed when its `VAR` is in the row's set of variants and its `T` in the row's range. The five
commands, `PADBLK`, `LDV` and `ACC` take every value their operands can have. -/

namespace Sys2Proof

/-- SHA-224 and SHA-256, the variants of the rows with `VAR` 1, 2 (the glossary's SHA-2-256-family). -/
def Variant.isS256 : Variant → Bool
  | .sha224 => true
  | .sha256 => true
  | .sha1 => false
  | .sha384 => false
  | .sha512 => false

/-- SHA-384 and SHA-512, the 64-bit family: R96's `fam64`. -/
def Variant.isFam64 : Variant → Bool
  | .sha384 => true
  | .sha512 => true
  | .sha1 => false
  | .sha224 => false
  | .sha256 => false

/-- SHA-1, SHA-224 and SHA-256, the 32-bit family: R96's `fam32`. -/
def Variant.isFam32 (v : Variant) : Bool := !v.isFam64

/-- `T` lies in a row's range, both ends included. -/
def inRange (lo hi : Nat) (t : BitVec 7) : Bool := decide (lo ≤ t.toNat) && decide (t.toNat ≤ hi)

/-- The operand ranges of R96. -/
def Instr.wf : Instr → Bool
  | .digestSha1 => true
  | .digestSha224 => true
  | .digestSha256 => true
  | .digestSha384 => true
  | .digestSha512 => true
  | .padblk _ => true
  | .wld32 v t => v.isFam32 && inRange 0 15 t
  | .wld64 v t => v.isFam64 && inRange 0 15 t
  | .wexpSha1 t => inRange 16 79 t
  | .wexpS256 v t => v.isS256 && inRange 16 63 t
  | .wexpS512 v t => v.isFam64 && inRange 16 79 t
  | .ldv _ => true
  | .rndSha1Ch t => inRange 0 19 t
  | .rndSha1Par1 t => inRange 20 39 t
  | .rndSha1Maj t => inRange 40 59 t
  | .rndSha1Par2 t => inRange 60 79 t
  | .rndS256 v t => v.isS256 && inRange 0 63 t
  | .rndS512 v t => v.isFam64 && inRange 0 79 t
  | .acc _ => true

/-- A micro-operation, as against a command (R95). -/
def Instr.isMicroOp : Instr → Bool
  | .digestSha1 => false
  | .digestSha224 => false
  | .digestSha256 => false
  | .digestSha384 => false
  | .digestSha512 => false
  | .padblk _ => true
  | .wld32 _ _ => true
  | .wld64 _ _ => true
  | .wexpSha1 _ => true
  | .wexpS256 _ _ => true
  | .wexpS512 _ _ => true
  | .ldv _ => true
  | .rndSha1Ch _ => true
  | .rndSha1Par1 _ => true
  | .rndSha1Maj _ => true
  | .rndSha1Par2 _ => true
  | .rndS256 _ _ => true
  | .rndS512 _ _ => true
  | .acc _ => true

end Sys2Proof
end

