-- ==== Sys2Proof/Decode.lean ====
section
/-! DEFINITION. Encodings and the decoder (spec/30_encoding.md).

Two formats of fixed length (R90): the 32-bit command word written to host register 0 (format H, R91, R92) and the 13-bit
step word `VAR ‖ PHASE ‖ T` (format S, R95, R96). Neither lies in a memory the engine fetches from, so neither has a byte
order (R67, R90). The decoder is total and rejects by name; the encoder after it is written from the same tables. -/

namespace Sys2Proof

/-- Why a word is no instruction. -/
inductive Reject where
  /-- a command word other than the five of R92 (R94): the host port discards it (R119) -/
  | reservedCommand
  /-- a step word with `PHASE = 0`: it selects no micro-operation, the engine is idle (R97) -/
  | idlePhase
  /-- a step word with `PHASE` 6 or 7 (R97) -/
  | reservedPhase
  /-- a step word with `VAR` 5, 6 or 7 (R97) -/
  | reservedVariant
  /-- a step word with `T != 0` in phase `PAD`, `LDV` or `ACC` (R97) -/
  | nonzeroIndex
  /-- a step word with `T >= R` in phase `SCHED` or `ROUND` (R97) -/
  | indexBeyondRounds
  deriving DecidableEq, Repr

/-- An instruction word in one of the two formats of R90. -/
inductive Code where
  /-- format H, R91 -/
  | command (w : BitVec 32)
  /-- format S, R95 -/
  | stepWord (w : BitVec 13)
  deriving DecidableEq, Repr

/-! ## Variant and phase codes -/

/-- The variant code `VARF` and `VAR` (R28, R91). -/
def Variant.code : Variant → BitVec 3
  | .sha1 => 0#3
  | .sha224 => 1#3
  | .sha256 => 2#3
  | .sha384 => 3#3
  | .sha512 => 4#3

/-- The variant of a code; the codes 5, 6, 7 are reserved (R28). -/
def Variant.ofCode (c : BitVec 3) : Option Variant :=
  if c = 0#3 then some .sha1
  else if c = 1#3 then some .sha224
  else if c = 2#3 then some .sha256
  else if c = 3#3 then some .sha384
  else if c = 4#3 then some .sha512
  else none

/-- `PHASE` code 0, `IDLE` (10_state.md R26). -/
abbrev phaseIDLE : BitVec 3 := 0#3
/-- `PHASE` code 1, `PAD` (R26). -/
abbrev phasePAD : BitVec 3 := 1#3
/-- `PHASE` code 2, `SCHED` (R26). -/
abbrev phaseSCHED : BitVec 3 := 2#3
/-- `PHASE` code 3, `LDV` (R26). -/
abbrev phaseLDV : BitVec 3 := 3#3
/-- `PHASE` code 4, `ROUND` (R26). -/
abbrev phaseROUND : BitVec 3 := 4#3
/-- `PHASE` code 5, `ACC` (R26). -/
abbrev phaseACC : BitVec 3 := 5#3

/-! ## Fields -/

/-- `SW = VAR ‖ PHASE ‖ T`, `VAR` in bits 12:10, `PHASE` in 9:7, `T` in 6:0 (R95). -/
def packStepWord (v p : BitVec 3) (t : BitVec 7) : BitVec 13 := v ++ p ++ t

/-- `SW[12:10]` (R95). -/
def stepVar (w : BitVec 13) : BitVec 3 := w.extractLsb' 10 3

/-- `SW[9:7]` (R95). -/
def stepPhase (w : BitVec 13) : BitVec 3 := w.extractLsb' 7 3

/-- `SW[6:0]` (R95). -/
def stepIndex (w : BitVec 13) : BitVec 7 := w.extractLsb' 0 7

/-- A command word's fields `ZERO ‖ OP ‖ Z3 ‖ VARF` (R91). -/
def packCommand (zero : BitVec 24) (op : BitVec 4) (z3 : BitVec 1) (varf : BitVec 3) : BitVec 32 :=
  zero ++ op ++ z3 ++ varf

/-- `OP` of `DIGEST` (R91). -/
abbrev opDIGEST : BitVec 4 := 1#4

/-! ## Decoding -/

/-- The command of a variant (R92). -/
def digestInstr : Variant → Instr
  | .sha1 => .digestSha1
  | .sha224 => .digestSha224
  | .sha256 => .digestSha256
  | .sha384 => .digestSha384
  | .sha512 => .digestSha512

/-- A command word is legal when `ZERO = 0`, `OP = 1`, `Z3 = 0` and `VARF` is a variant code (R91, R94). -/
def decodeCommand (w : BitVec 32) : Except Reject Instr :=
  if w.extractLsb' 8 24 = 0#24 ∧ w.extractLsb' 4 4 = opDIGEST ∧ w.extractLsb' 3 1 = 0#1 then
    match Variant.ofCode (w.extractLsb' 0 3) with
    | some v => .ok (digestInstr v)
    | none => .error .reservedCommand
  else .error .reservedCommand

/-- The rows of R96 with `PHASE = 2`. -/
def decodeSched (v : Variant) (t : BitVec 7) : Except Reject Instr :=
  match v with
  | .sha1 =>
    if t.toNat < 16 then .ok (.wld32 .sha1 t)
    else if t.toNat < 80 then .ok (.wexpSha1 t) else .error .indexBeyondRounds
  | .sha224 =>
    if t.toNat < 16 then .ok (.wld32 .sha224 t)
    else if t.toNat < 64 then .ok (.wexpS256 .sha224 t) else .error .indexBeyondRounds
  | .sha256 =>
    if t.toNat < 16 then .ok (.wld32 .sha256 t)
    else if t.toNat < 64 then .ok (.wexpS256 .sha256 t) else .error .indexBeyondRounds
  | .sha384 =>
    if t.toNat < 16 then .ok (.wld64 .sha384 t)
    else if t.toNat < 80 then .ok (.wexpS512 .sha384 t) else .error .indexBeyondRounds
  | .sha512 =>
    if t.toNat < 16 then .ok (.wld64 .sha512 t)
    else if t.toNat < 80 then .ok (.wexpS512 .sha512 t) else .error .indexBeyondRounds

/-- The rows of R96 with `PHASE = 4`. -/
def decodeRound (v : Variant) (t : BitVec 7) : Except Reject Instr :=
  match v with
  | .sha1 =>
    if t.toNat < 20 then .ok (.rndSha1Ch t)
    else if t.toNat < 40 then .ok (.rndSha1Par1 t)
    else if t.toNat < 60 then .ok (.rndSha1Maj t)
    else if t.toNat < 80 then .ok (.rndSha1Par2 t) else .error .indexBeyondRounds
  | .sha224 => if t.toNat < 64 then .ok (.rndS256 .sha224 t) else .error .indexBeyondRounds
  | .sha256 => if t.toNat < 64 then .ok (.rndS256 .sha256 t) else .error .indexBeyondRounds
  | .sha384 => if t.toNat < 80 then .ok (.rndS512 .sha384 t) else .error .indexBeyondRounds
  | .sha512 => if t.toNat < 80 then .ok (.rndS512 .sha512 t) else .error .indexBeyondRounds

/-- The rows of R96 that take `T = 0` only. -/
def decodeUnindexed (i : Instr) (t : BitVec 7) : Except Reject Instr :=
  if t = 0#7 then .ok i else .error .nonzeroIndex

/-- Decode of the step word (R96); the words outside its table are rejected by name (R97). -/
def decodeStepWord (w : BitVec 13) : Except Reject Instr :=
  if stepPhase w = phaseIDLE then .error .idlePhase
  else
    match Variant.ofCode (stepVar w) with
    | none => .error .reservedVariant
    | some v =>
      if stepPhase w = phasePAD then decodeUnindexed (.padblk v) (stepIndex w)
      else if stepPhase w = phaseSCHED then decodeSched v (stepIndex w)
      else if stepPhase w = phaseLDV then decodeUnindexed (.ldv v) (stepIndex w)
      else if stepPhase w = phaseROUND then decodeRound v (stepIndex w)
      else if stepPhase w = phaseACC then decodeUnindexed (.acc v) (stepIndex w)
      else .error .reservedPhase

/-- The decoder: a word of either format. -/
def decode : Code → Except Reject Instr
  | .command w => decodeCommand w
  | .stepWord w => decodeStepWord w

/-- The word a row of the opcode table gives in `nbits` bits: a row of 32 bits is format H; a row of 13 bits (in whole
bytes: 16) is format S, whose bits above 12 must be 0 (R90, R100). -/
def codeOfTableWord (nbits w : Nat) : Option Code :=
  if nbits ≤ 16 then
    if w < 8192 then some (.stepWord (BitVec.ofNat 13 w)) else none
  else if w < 4294967296 then some (.command (BitVec.ofNat 32 w)) else none

/-- The instruction the decoder reads from a word numbered as spec/opcode_table.json numbers it. -/
def decodeTableWord (nbits w : Nat) : Option Instr :=
  match codeOfTableWord nbits w with
  | none => none
  | some c =>
    match decode c with
    | .ok i => some i
    | .error _ => none

/-! ## Encoding -/

/-- The command word of a variant, `0x00000010` to `0x00000014` (R92). -/
def commandWord (v : Variant) : BitVec 32 := packCommand 0#24 opDIGEST 0#1 v.code

/-- The word of an instruction: R92 for a command, the row of R96 for a micro-operation. -/
def encode : Instr → Code
  | .digestSha1 => .command (commandWord .sha1)
  | .digestSha224 => .command (commandWord .sha224)
  | .digestSha256 => .command (commandWord .sha256)
  | .digestSha384 => .command (commandWord .sha384)
  | .digestSha512 => .command (commandWord .sha512)
  | .padblk v => .stepWord (packStepWord v.code phasePAD 0#7)
  | .wld32 v t => .stepWord (packStepWord v.code phaseSCHED t)
  | .wld64 v t => .stepWord (packStepWord v.code phaseSCHED t)
  | .wexpSha1 t => .stepWord (packStepWord Variant.sha1.code phaseSCHED t)
  | .wexpS256 v t => .stepWord (packStepWord v.code phaseSCHED t)
  | .wexpS512 v t => .stepWord (packStepWord v.code phaseSCHED t)
  | .ldv v => .stepWord (packStepWord v.code phaseLDV 0#7)
  | .rndSha1Ch t => .stepWord (packStepWord Variant.sha1.code phaseROUND t)
  | .rndSha1Par1 t => .stepWord (packStepWord Variant.sha1.code phaseROUND t)
  | .rndSha1Maj t => .stepWord (packStepWord Variant.sha1.code phaseROUND t)
  | .rndSha1Par2 t => .stepWord (packStepWord Variant.sha1.code phaseROUND t)
  | .rndS256 v t => .stepWord (packStepWord v.code phaseROUND t)
  | .rndS512 v t => .stepWord (packStepWord v.code phaseROUND t)
  | .acc v => .stepWord (packStepWord v.code phaseACC 0#7)

end Sys2Proof
end

