-- ==== Sys2Proof/Machine/Constants.lean ====
section
/-! DEFINITION. The constant tables (spec/10_state.md R36 to R43): initial hash values and round constants. They are constants
of the hardware, "never mutated" (R45), and no state. The spec supplies every value from general knowledge (FIPS 180-4;
93_implementation_defined.md G1 to G3); assumption log 12. -/

namespace Sys2Proof.Machine

open Sys2Proof

/-- `IV_0`, SHA-1 (R36). -/
def IV_0 : List Word32 :=
  [0x67452301#32, 0xefcdab89#32, 0x98badcfe#32, 0x10325476#32] ++
  [0xc3d2e1f0#32]

/-- `IV_1`, SHA-224 (R37). -/
def IV_1 : List Word32 :=
  [0xc1059ed8#32, 0x367cd507#32, 0x3070dd17#32, 0xf70e5939#32] ++
  [0xffc00b31#32, 0x68581511#32, 0x64f98fa7#32, 0xbefa4fa4#32]

/-- `IV_2`, SHA-256 (R38). -/
def IV_2 : List Word32 :=
  [0x6a09e667#32, 0xbb67ae85#32, 0x3c6ef372#32, 0xa54ff53a#32] ++
  [0x510e527f#32, 0x9b05688c#32, 0x1f83d9ab#32, 0x5be0cd19#32]

/-- `IV_3`, SHA-384 (R39). -/
def IV_3 : List Word64 :=
  [0xcbbb9d5dc1059ed8#64, 0x629a292a367cd507#64] ++
  [0x9159015a3070dd17#64, 0x152fecd8f70e5939#64] ++
  [0x67332667ffc00b31#64, 0x8eb44a8768581511#64] ++
  [0xdb0c2e0d64f98fa7#64, 0x47b5481dbefa4fa4#64]

/-- `IV_4`, SHA-512 (R40). -/
def IV_4 : List Word64 :=
  [0x6a09e667f3bcc908#64, 0xbb67ae8584caa73b#64] ++
  [0x3c6ef372fe94f82b#64, 0xa54ff53a5f1d36f1#64] ++
  [0x510e527fade682d1#64, 0x9b05688c2b3e6c1f#64] ++
  [0x1f83d9abfb41bd6b#64, 0x5be0cd19137e2179#64]

/-- `K1[0..3]`, SHA-1 (R41). -/
def K1 : List Word32 :=
  [0x5a827999#32, 0x6ed9eba1#32, 0x8f1bbcdc#32, 0xca62c1d6#32]

/-- `K256[0..63]`, SHA-224 and SHA-256 (R42). -/
def K256 : List Word32 :=
  [0x428a2f98#32, 0x71374491#32, 0xb5c0fbcf#32, 0xe9b5dba5#32, 0x3956c25b#32, 0x59f111f1#32, 0x923f82a4#32, 0xab1c5ed5#32] ++
  [0xd807aa98#32, 0x12835b01#32, 0x243185be#32, 0x550c7dc3#32, 0x72be5d74#32, 0x80deb1fe#32, 0x9bdc06a7#32, 0xc19bf174#32] ++
  [0xe49b69c1#32, 0xefbe4786#32, 0x0fc19dc6#32, 0x240ca1cc#32, 0x2de92c6f#32, 0x4a7484aa#32, 0x5cb0a9dc#32, 0x76f988da#32] ++
  [0x983e5152#32, 0xa831c66d#32, 0xb00327c8#32, 0xbf597fc7#32, 0xc6e00bf3#32, 0xd5a79147#32, 0x06ca6351#32, 0x14292967#32] ++
  [0x27b70a85#32, 0x2e1b2138#32, 0x4d2c6dfc#32, 0x53380d13#32, 0x650a7354#32, 0x766a0abb#32, 0x81c2c92e#32, 0x92722c85#32] ++
  [0xa2bfe8a1#32, 0xa81a664b#32, 0xc24b8b70#32, 0xc76c51a3#32, 0xd192e819#32, 0xd6990624#32, 0xf40e3585#32, 0x106aa070#32] ++
  [0x19a4c116#32, 0x1e376c08#32, 0x2748774c#32, 0x34b0bcb5#32, 0x391c0cb3#32, 0x4ed8aa4a#32, 0x5b9cca4f#32, 0x682e6ff3#32] ++
  [0x748f82ee#32, 0x78a5636f#32, 0x84c87814#32, 0x8cc70208#32, 0x90befffa#32, 0xa4506ceb#32, 0xbef9a3f7#32, 0xc67178f2#32]

/-- `K512[0..79]`, SHA-384 and SHA-512 (R43). -/
def K512 : List Word64 :=
  [0x428a2f98d728ae22#64, 0x7137449123ef65cd#64, 0xb5c0fbcfec4d3b2f#64, 0xe9b5dba58189dbbc#64] ++
  [0x3956c25bf348b538#64, 0x59f111f1b605d019#64, 0x923f82a4af194f9b#64, 0xab1c5ed5da6d8118#64] ++
  [0xd807aa98a3030242#64, 0x12835b0145706fbe#64, 0x243185be4ee4b28c#64, 0x550c7dc3d5ffb4e2#64] ++
  [0x72be5d74f27b896f#64, 0x80deb1fe3b1696b1#64, 0x9bdc06a725c71235#64, 0xc19bf174cf692694#64] ++
  [0xe49b69c19ef14ad2#64, 0xefbe4786384f25e3#64, 0x0fc19dc68b8cd5b5#64, 0x240ca1cc77ac9c65#64] ++
  [0x2de92c6f592b0275#64, 0x4a7484aa6ea6e483#64, 0x5cb0a9dcbd41fbd4#64, 0x76f988da831153b5#64] ++
  [0x983e5152ee66dfab#64, 0xa831c66d2db43210#64, 0xb00327c898fb213f#64, 0xbf597fc7beef0ee4#64] ++
  [0xc6e00bf33da88fc2#64, 0xd5a79147930aa725#64, 0x06ca6351e003826f#64, 0x142929670a0e6e70#64] ++
  [0x27b70a8546d22ffc#64, 0x2e1b21385c26c926#64, 0x4d2c6dfc5ac42aed#64, 0x53380d139d95b3df#64] ++
  [0x650a73548baf63de#64, 0x766a0abb3c77b2a8#64, 0x81c2c92e47edaee6#64, 0x92722c851482353b#64] ++
  [0xa2bfe8a14cf10364#64, 0xa81a664bbc423001#64, 0xc24b8b70d0f89791#64, 0xc76c51a30654be30#64] ++
  [0xd192e819d6ef5218#64, 0xd69906245565a910#64, 0xf40e35855771202a#64, 0x106aa07032bbd1b8#64] ++
  [0x19a4c116b8d2d0c8#64, 0x1e376c085141ab53#64, 0x2748774cdf8eeb99#64, 0x34b0bcb5e19b48a8#64] ++
  [0x391c0cb3c5c95a63#64, 0x4ed8aa4ae3418acb#64, 0x5b9cca4f7763e373#64, 0x682e6ff3d6b2b8a3#64] ++
  [0x748f82ee5defb2fc#64, 0x78a5636f43172f60#64, 0x84c87814a1f0ab72#64, 0x8cc702081a6439ec#64] ++
  [0x90befffa23631e28#64, 0xa4506cebde82bde9#64, 0xbef9a3f7b2c67915#64, 0xc67178f2e372532b#64] ++
  [0xca273eceea26619c#64, 0xd186b8c721c0c207#64, 0xeada7dd6cde0eb1e#64, 0xf57d4f7fee6ed178#64] ++
  [0x06f067aa72176fba#64, 0x0a637dc5a2c898a6#64, 0x113f9804bef90dae#64, 0x1b710b35131c471b#64] ++
  [0x28db77f523047d84#64, 0x32caab7b40c72493#64, 0x3c9ebe0a15c9bebc#64, 0x431d67c49c100d4c#64] ++
  [0x4cc5d4becb3e42b6#64, 0x597f299cfc657e2a#64, 0x5fcb6fab3ad6faec#64, 0x6c44198c4a475817#64]

/-- `K1[j]` (R41). An index past the table is asked for by no well-formed instruction. -/
def k1 (j : Nat) : Word32 := K1.getD j 0#32

/-- `K256[t]` (R42). An index past the table is asked for by no well-formed instruction. -/
def k256 (t : Nat) : Word32 := K256.getD t 0#32

/-- `K512[t]` (R43). An index past the table is asked for by no well-formed instruction. -/
def k512 (t : Nat) : Word64 := K512.getD t 0#64

end Sys2Proof.Machine
end

