-- ==== Sys2Proof/Config.lean ====
section
/-! DEFINITION. The free values: what the spec leaves without a value.

Each is a constant with no body, so no proof can see what it is, and a claim about the machine holds whatever it is. The
first argument is the state's counter `tick`, which every engine step advances, the second says which element or byte is
asked for. They are read only where the spec gives no value: an element that holds `invalid` (10_state.md R44), the bits
63:32 of an element that holds a 32-bit word (R23), a byte of `PB` outside its range (41_padding.md R133), a `DOUT` register
under a reserved `VAR` code, a host register read while `rst` is asserted (70_reset_and_hazards.md R270). Assumption log 2, 3,
4, 5, 10. The parameters that 92_eei_decisions.md section 2 leaves open
(`REG_BASE`, `MSG_BASE`, the number of engines, the electrical form of `rst`) are used by no rule and have no constant here
(log 13). -/

namespace Sys2Proof

/-- A 64-bit word the spec leaves without a value. -/
opaque Config.freeWord (tick slot : Nat) : Word64

/-- What a host register of this number reads as where the spec leaves that without a value. -/
opaque Config.freeRead (tick reg : Nat) : Word32

/-- A byte the spec leaves without a value. -/
opaque Config.freeByte (tick slot : Nat) : Byte

end Sys2Proof
end

