-- ==== Sys2Proof/Machine/Memory.lean ====
section
/-! DEFINITION. The message space `MSG` (spec/20_memory.md R60): a byte space of 125-bit addresses, held as the list of its
cells in one canonical form. The engine only reads it; the host, who owns it, writes it. -/

namespace Sys2Proof.Machine

open Sys2Proof

/-- What an address the host has placed nothing at reads as. DESIGN CHOICE, assumption log 1: the spec leaves the content
of `MSG` to the host, and a read below `n` has no failure case (R243, U4). -/
def Memory.blank : Byte := 0#8

/-- The number of addresses: a byte index is 125 bits wide (R60). -/
def Memory.size : Nat := 2 ^ 125

/-- The byte at an address: `MemRead(MSG, a, 1)` (R60). -/
def Memory.read : List Host.Cell → Nat → Byte
  | [], _ => Memory.blank
  | (k, b) :: rest, a => if k = a then b else Memory.read rest a

/-- Put a cell before a list, unless it holds what an unlisted address reads as. -/
def Memory.cons (a : Nat) (b : Byte) (rest : List Host.Cell) : List Host.Cell :=
  if b = Memory.blank then rest else (a, b) :: rest

/-- The host changes one byte of the space. -/
def Memory.write : List Host.Cell → Nat → Byte → List Host.Cell
  | [], a, b => Memory.cons a b []
  | (k, c) :: rest, a, b =>
    if a < k then Memory.cons a b ((k, c) :: rest)
    else if a = k then Memory.cons a b rest
    else (k, c) :: Memory.write rest a b

/-- The canonical form above an address: addresses strictly rising from `lo` on, inside the space, and no cell that holds
what an unlisted address reads as. -/
def Memory.wfFrom : Nat → List Host.Cell → Bool
  | _, [] => true
  | lo, (k, b) :: rest =>
    decide (lo ≤ k) && decide (k < Memory.size) && decide (b ≠ Memory.blank) && Memory.wfFrom (k + 1) rest

/-- The canonical form, so that equal memories are equal data. -/
def Memory.wf (m : List Host.Cell) : Bool := Memory.wfFrom 0 m

end Sys2Proof.Machine
end

