-- ==== Sys2Proof/Machine/Params.lean ====
section
/-! DEFINITION. The variant parameter table (spec/00_scope.md R4, R5). The names are the spec's own. -/

namespace Sys2Proof

/-- Word width in bits (R4). -/
def Variant.ww (v : Variant) : Nat := if v.isFam64 then 64 else 32

/-- Word width in bytes, `ww / 8` (R5). -/
def Variant.wb (v : Variant) : Nat := if v.isFam64 then 8 else 4

/-- Block size in bits (R4). -/
def Variant.Bb (v : Variant) : Nat := if v.isFam64 then 1024 else 512

/-- Block size in bytes, `Bb / 8` (R5). -/
def Variant.B (v : Variant) : Nat := if v.isFam64 then 128 else 64

/-- Length field in bits (R5). -/
def Variant.lfb (v : Variant) : Nat := if v.isFam64 then 128 else 64

/-- Length field in bytes, `lfb / 8` (R5). -/
def Variant.LB (v : Variant) : Nat := if v.isFam64 then 16 else 8

/-- Rounds per block, also schedule words per block (R4, R5). -/
def Variant.R : Variant → Nat
  | .sha1 => 80
  | .sha224 => 64
  | .sha256 => 64
  | .sha384 => 80
  | .sha512 => 80

/-- Raw schedule words taken from the block (R5). -/
def Variant.NRAW (_ : Variant) : Nat := 16

/-- Working variables and Hash State words (R5). -/
def Variant.NV : Variant → Nat
  | .sha1 => 5
  | .sha224 => 8
  | .sha256 => 8
  | .sha384 => 8
  | .sha512 => 8

/-- Digest words (R4, R5). -/
def Variant.NOUT : Variant → Nat
  | .sha1 => 5
  | .sha224 => 7
  | .sha256 => 8
  | .sha384 => 6
  | .sha512 => 8

/-- How many `DOUT` registers, from `DOUT0` on, hold the digest: one for each 32 bits of it (44_digest.md R205, its table). -/
def Variant.doutCount (v : Variant) : Nat := v.NOUT * (v.ww / 32)

/-- Round-constant table entries (R5). -/
def Variant.NK : Variant → Nat
  | .sha1 => 4
  | .sha224 => 64
  | .sha256 => 64
  | .sha384 => 80
  | .sha512 => 80

/-- Largest bit length not raising `LengthOverflow`, `2^lfb - 1` (R5, 90_conflicts.md C1). -/
def Variant.LMAX (v : Variant) : Nat := 2 ^ v.lfb - 1

end Sys2Proof
end

