-- ==== Sys2Proof/Machine/State.lean ====
section
/-! DEFINITION. The state of the machine: one engine (spec/10_state.md R20), the message space the host owns
(20_memory.md R60), and the host's side of the interface as plain data.

The engine's fields carry the spec's own names. `RST` is the level of the one input the spec gives the engine (R270). The five
fields after `MSG` are the model's own: they hold the other agent (the host, R10) and the inputs it gives, so that one
deterministic step can run every interleaving of host and engine steps (assumption log 6, 7, 8), and the counter the free
values are drawn with (log 2). -/

namespace Sys2Proof.Machine

open Sys2Proof

/-- The content of an element of `H`, `V` or `W`: a word of the width of the family that wrote it, or `invalid`.
R44: an element that nothing has written since reset, or that `PADBLK` has invalidated, "holds `invalid`: it has no value".
R23: "A model may type each element as a `ww`-bit value chosen by `VAR`, with no upper half at all." -/
inductive Elem where
  /-- no value (R44) -/
  | invalid
  /-- written in the 32-bit family: bits 31:0; bits 63:32 have no architectural content (R23) -/
  | w32 (x : Word32)
  /-- written in the 64-bit family -/
  | w64 (x : Word64)
  deriving DecidableEq, Repr

/-- One access of the host (R10, R110 to R114), or its placing of one message byte (R120 step 1). -/
inductive Access where
  /-- `HostRead(n)` -/
  | read (n : BitVec 5)
  /-- `HostWrite(n, v)` -/
  | write (n : BitVec 5) (v : Word32)
  /-- the host changes byte `a` of the message space it owns -/
  | place (a : BitVec 125) (b : Byte)
  deriving DecidableEq, Repr

/-- Whose step comes next (R10: "Host steps and engine steps interleave in any order"). -/
inductive Turn where
  /-- the engine sequencer takes its step, if it has one -/
  | engine
  /-- the host makes an access -/
  | host (a : Access)
  /-- the input `rst` becomes asserted (R270, R271: "in any state") -/
  | assertRst
  /-- the input `rst` is released (R270) -/
  | releaseRst
  deriving DecidableEq, Repr

/-- The machine. -/
structure State where
  /-- Hash State `H[0..7]` (R21) -/
  H : Vector Elem 8
  /-- Working State `V[0..7]`, `a` to `h` (R22) -/
  V : Vector Elem 8
  /-- Message Schedule `W[0..79]` (R24) -/
  W : Vector Elem 80
  /-- block buffer `M[0..127]` (R27); `none` is `invalid` (R44) -/
  M : Vector (Option Byte) 128
  /-- sequencer phase, 3 bits (R25, R26) -/
  PHASE : BitVec 3
  /-- index of the block being processed, 119 bits (R25) -/
  BIDX : BitVec 119
  /-- round index, 7 bits (R25) -/
  T : BitVec 7
  /-- latched variant code, 3 bits (R28) -/
  VAR : BitVec 3
  /-- latched message bit length, 128 bits (R29) -/
  L : BitVec 128
  /-- number of blocks of the Padded Buffer, 119 bits (R29) -/
  NBLK : BitVec 119
  /-- an invocation is running (R30) -/
  BUSY : Bool
  /-- `H` holds the digest (R30) -/
  DONE : Bool
  /-- `LengthOverflow` (R30) -/
  ERR : Bool
  /-- host register 2, `bit_length[31:0]` (R34) -/
  LEN0 : Word32
  /-- host register 3, `bit_length[63:32]` (R34) -/
  LEN1 : Word32
  /-- host register 4, `bit_length[95:64]` (R34) -/
  LEN2 : Word32
  /-- host register 5, `bit_length[127:96]` (R34) -/
  LEN3 : Word32
  /-- the input `rst` is asserted (R270; log 10) -/
  RST : Bool
  /-- the message space `MSG` (R60), the host's: cells in rising address order, none holding the blank byte -/
  MSG : List Host.Cell
  /-- the model's own: the turns to come, first one next; when none is left the engine takes every turn (log 6) -/
  turns : List Turn
  /-- the model's own: the command word of a `CMD` write that is held while `BUSY = 1` (R116; log 7) -/
  held : Option Word32
  /-- the model's own: register number and value of every `HostRead` so far, oldest first (log 8) -/
  reads : List (BitVec 5 × Word32)
  /-- the model's own: every `MSG` index the engine has read so far, oldest first (R69; log 8) -/
  msgReads : List Nat
  /-- the model's own: the counter the free values are drawn with; every engine step advances it (log 2) -/
  tick : Nat
  deriving DecidableEq, Repr

/-- A step ends in no fault: "No micro-operation can fault" and "A write never raises an error" (R243, R110). The one error
of the spec, `LengthOverflow`, is the flag `ERR` and the machine goes on (R241), so no constructor is left. -/
inductive Fault where
  deriving DecidableEq, Repr

/-- Where a step has no meaning. -/
inductive Refusal where
  /-- Raised by an arm of exec whose instruction has no meaning yet (none has this left). Safe: the run stops. -/
  | notModelled (mnemonic : String)
  /-- Raised by the five `DIGEST` commands when accepted with `L <= LMAX` and `L mod 8 != 0` (R118, U1: "A model refuses
  it"). Safe: the spec gives the command and every later state no behaviour, and nothing can be proved of them. -/
  | unalignedLength
  /-- Raised by an engine turn whose step word is outside the table of R96 while `PHASE != 0` (R97, U6: "a decode function
  asked for one should refuse by name"). Safe: no reachable state has such a word, and the run stops. -/
  | reservedStepWord
  deriving DecidableEq, Repr

/-- `n` copies of one element, as a file of state elements. -/
def uniformFile {α : Type} (n : Nat) (x : α) : Vector α n := ⟨(List.replicate n x).toArray, by simp⟩

/-- The machine right after reset (R48, R270): the datapath holds `invalid`, every other element is 0, and
`rst` is released. Nothing is placed in `MSG` yet, no turn is waiting, no command is held and nothing has been read (log 1, 6, 7, 8). -/
def State.reset : State where
  H := uniformFile 8 .invalid
  V := uniformFile 8 .invalid
  W := uniformFile 80 .invalid
  M := uniformFile 128 none
  PHASE := 0
  BIDX := 0
  T := 0
  VAR := 0
  L := 0
  NBLK := 0
  BUSY := false
  DONE := false
  ERR := false
  LEN0 := 0
  LEN1 := 0
  LEN2 := 0
  LEN3 := 0
  RST := false
  MSG := []
  turns := []
  held := none
  reads := []
  msgReads := []
  tick := 0

end Sys2Proof.Machine
end

