-- ==== Sys2Proof/Machine/Ops.lean ====
section
/-! DEFINITION. The named operations over the state. A meaning writes the state through these only.

`raiseLengthOverflow` is the engine's one error entry (60_exceptions.md R241, R246); leaving the error state is
`clearResult`, which an accepted command does (R247: "There is no return operation"). -/

namespace Sys2Proof.Machine

open Sys2Proof

/-! ## Files of elements -/

/-- Apply a function of index and element along a list, counting from `i`. -/
def mapFrom {α : Type} (f : Nat → α → α) : Nat → List α → List α
  | _, [] => []
  | i, x :: xs => f i x :: mapFrom f (i + 1) xs

theorem mapFrom_length {α : Type} (f : Nat → α → α) (i : Nat) (xs : List α) : (mapFrom f i xs).length = xs.length := by
  induction xs generalizing i with
  | nil => rfl
  | cons x xs ih => simp [mapFrom, ih]

/-- Rewrite a file element by element; every right-hand side sees the file as it was (00_scope.md section 6.3). -/
def fileMap {α : Type} {n : Nat} (f : Nat → α → α) (xs : Vector α n) : Vector α n :=
  ⟨(mapFrom f 0 xs.toList).toArray, by simp [mapFrom_length]⟩

/-- Write element `i`. -/
def fileSet {α : Type} {n : Nat} (xs : Vector α n) (i : Nat) (x : α) : Vector α n := xs.setIfInBounds i x

/-! ## Engine state -/

/-- `H <- x`. -/
def State.setH (s : State) (x : Vector Elem 8) : State := { s with H := x }

/-- `V <- x`. -/
def State.setV (s : State) (x : Vector Elem 8) : State := { s with V := x }

/-- `W <- x`. -/
def State.setW (s : State) (x : Vector Elem 80) : State := { s with W := x }

/-- `M <- x`. -/
def State.setM (s : State) (x : Vector (Option Byte) 128) : State := { s with M := x }

/-- `SEQ <- (p, j, t)` (10_state.md R25). -/
def State.setSEQ (s : State) (p : BitVec 3) (j : BitVec 119) (t : BitVec 7) : State :=
  { s with PHASE := p, BIDX := j, T := t }

/-- `VAR <- v; L <- len` (40_host_commands.md R115). -/
def State.latch (s : State) (v : BitVec 3) (len : BitVec 128) : State := { s with VAR := v, L := len }

/-- `NBLK <- x` (R117). -/
def State.setNBLK (s : State) (x : BitVec 119) : State := { s with NBLK := x }

/-- `DONE <- 0; ERR <- 0`: the previous digest and the previous error are gone (R115, R247). -/
def State.clearResult (s : State) : State := { s with DONE := false, ERR := false }

/-- `BUSY <- 1` (R117). -/
def State.startBusy (s : State) : State := { s with BUSY := true }

/-- `BUSY <- 0; DONE <- 1`: the `ACC` of the last block (44_digest.md R200). -/
def State.complete (s : State) : State := { s with BUSY := false, DONE := true }

/-- `raise LengthOverflow`: `ERR <- 1` and nothing else (60_exceptions.md R241). -/
def State.raiseLengthOverflow (s : State) : State := { s with ERR := true }

/-- `LEN(n-2) <- x` for register number `n` in 2 to 5 (R111); any other number changes nothing (R110). -/
def State.setLEN (s : State) (n : BitVec 5) (x : Word32) : State :=
  if n = 2#5 then { s with LEN0 := x }
  else if n = 3#5 then { s with LEN1 := x }
  else if n = 4#5 then { s with LEN2 := x }
  else if n = 5#5 then { s with LEN3 := x }
  else s

/-! ## The host's side -/

/-- The host changes one byte of the message space (R120 step 1, 20_memory.md R72). -/
def State.placeByte (s : State) (a : BitVec 125) (b : Byte) : State := { s with MSG := Memory.write s.MSG a.toNat b }

/-- The turns still to come. -/
def State.setTurns (s : State) (ts : List Turn) : State := { s with turns := ts }

/-- The command word of the held `CMD` write, if one is held (R116). -/
def State.setHeld (s : State) (w : Option Word32) : State := { s with held := w }

/-- `rst` becomes asserted (R270): a command held at that moment is dropped (R271). Everything else keeps its value until the
release, which is where the spec gives the reset values; meanwhile no step uses it (log 10). -/
def State.assertReset (s : State) : State := { s with RST := true, held := none }

/-- `rst` is released (R270, R271): every piece of engine state takes its reset value. The message is the host's and is not
affected; what the host and the platform have seen, and the turns to come, are no engine state (log 10). -/
def State.afterReset (s : State) : State :=
  { State.reset with MSG := s.MSG, turns := s.turns, reads := s.reads, msgReads := s.msgReads, tick := s.tick }

/-- What a `HostRead(n)` returned. -/
def State.logRead (s : State) (n : BitVec 5) (x : Word32) : State := { s with reads := s.reads ++ [(n, x)] }

/-- The `MSG` indices a step has read, in the order it read them (R69). -/
def State.logMsgReads (s : State) (is : List Nat) : State := { s with msgReads := s.msgReads ++ is }

/-- The next value of the free values' counter. -/
def State.nextTick (s : State) : State := { s with tick := s.tick + 1 }

/-! ## The next position (45_sequencer.md R216) -/

/-- After the `SCHED` step of index `t`: the next index, or `(LDV, j, 0)` after `t = R - 1`. -/
def State.nextSched (s : State) (v : Variant) (t : BitVec 7) : State :=
  if t.toNat + 1 = v.R then s.setSEQ phaseLDV s.BIDX 0#7 else s.setSEQ phaseSCHED s.BIDX (t + 1#7)

/-- After the round of index `t`: the next index, or `(ACC, j, 0)` after `t = R - 1`. -/
def State.nextRound (s : State) (v : Variant) (t : BitVec 7) : State :=
  if t.toNat + 1 = v.R then s.setSEQ phaseACC s.BIDX 0#7 else s.setSEQ phaseROUND s.BIDX (t + 1#7)

end Sys2Proof.Machine
end

