-- ==== Sys2Proof/Machine/WordOps.lean ====
section
/-! DEFINITION. Arithmetic on words: the shift and rotate primitives (spec/00_scope.md R8) and big-endian packing (R9).
Addition is `BitVec`'s own, which is modulo `2^w` with no carry kept (R7). -/

namespace Sys2Proof.Machine

open Sys2Proof

/-- `SHR_w(x, n)`: logical right shift (R8). -/
def shr {w : Nat} (x : BitVec w) (n : Nat) : BitVec w := x >>> n

/-- `SHL_w(x, n)`: logical left shift (R8). -/
def shl {w : Nat} (x : BitVec w) (n : Nat) : BitVec w := x <<< n

/-- `ROTL_w(x, n) = SHL_w(x, n) OR SHR_w(x, w - n)` (R8). -/
def rotl {w : Nat} (x : BitVec w) (n : Nat) : BitVec w := shl x n ||| shr x (w - n)

/-- `ROTR_w(x, n) = SHR_w(x, n) OR SHL_w(x, w - n)` (R8). -/
def rotr {w : Nat} (x : BitVec w) (n : Nat) : BitVec w := shr x n ||| shl x (w - n)

/-- `BE_4`: the first byte is the most significant (R9). -/
def be4 (b0 b1 b2 b3 : Byte) : Word32 := b0 ++ b1 ++ b2 ++ b3

/-- `BE_8`: the first byte is the most significant (R9). -/
def be8 (b0 b1 b2 b3 b4 b5 b6 b7 : Byte) : Word64 := b0 ++ b1 ++ b2 ++ b3 ++ b4 ++ b5 ++ b6 ++ b7

/-- `BEbyte_n(v, j) = (v >> (8 * (n - 1 - j))) AND 0xFF`, for an `8n`-bit value given as a wider one whose upper bits are
not looked at (R9). -/
def beByte {w : Nat} (n : Nat) (v : BitVec w) (j : Nat) : Byte := v.extractLsb' (8 * (n - 1 - j)) 8

end Sys2Proof.Machine
end

