-- ==== Sys2Proof/Machine/Operands.lean ====
section
/-! DEFINITION. Reading the state: elements of `H`, `V`, `W`, `M`, and the length registers.

A read is of the width of the family. Where the element has no value in that width (it holds `invalid`, or a 64-bit read
meets bits 63:32 that a 32-bit write left without content) the read gives a free value of Config: 10_state.md R23, R44;
93_implementation_defined.md U5; assumption log 2, 3. No state that meets the invariant of Safety.lean has such a read. -/

namespace Sys2Proof.Machine

open Sys2Proof

/-- Element `i` of a file; past its end there is no element and so no value. -/
def elemAt {n : Nat} (xs : Vector Elem n) (i : Nat) : Elem := xs[i]?.getD .invalid

/-- Byte `i` of the block buffer, if it has a value. -/
def byteAt {n : Nat} (xs : Vector (Option Byte) n) (i : Nat) : Option Byte := xs[i]?.getD none

/-- A 32-bit read: bits 31:0 of the register (R23). -/
def Elem.to32 (e : Elem) (free : Word64) : Word32 :=
  match e with
  | .invalid => free.setWidth 32
  | .w32 x => x
  | .w64 x => x.setWidth 32

/-- A 64-bit read (R23). -/
def Elem.to64 (e : Elem) (free : Word64) : Word64 :=
  match e with
  | .invalid => free
  | .w32 x => free.extractLsb' 32 32 ++ x
  | .w64 x => x

/-- The free value behind slot `k`: `H[i]` has slot `i`, `V[i]` slot `8 + i`, `W[t]` slot `16 + t`, and 96 on are for
`DOUT` under a reserved `VAR` code. -/
def State.freeAt (s : State) (k : Nat) : Word64 := Config.freeWord s.tick k

/-- `H[i]` as a 32-bit value. -/
def State.h32 (s : State) (i : Nat) : Word32 := (elemAt s.H i).to32 (s.freeAt i)

/-- `H[i]` as a 64-bit value. -/
def State.h64 (s : State) (i : Nat) : Word64 := (elemAt s.H i).to64 (s.freeAt i)

/-- `V[i]` as a 32-bit value. -/
def State.v32 (s : State) (i : Nat) : Word32 := (elemAt s.V i).to32 (s.freeAt (8 + i))

/-- `V[i]` as a 64-bit value. -/
def State.v64 (s : State) (i : Nat) : Word64 := (elemAt s.V i).to64 (s.freeAt (8 + i))

/-- `W[t]` as a 32-bit value. -/
def State.w32 (s : State) (t : Nat) : Word32 := (elemAt s.W t).to32 (s.freeAt (16 + t))

/-- `W[t]` as a 64-bit value. -/
def State.w64 (s : State) (t : Nat) : Word64 := (elemAt s.W t).to64 (s.freeAt (16 + t))

/-- `M[i]`. -/
def State.m8 (s : State) (i : Nat) : Byte := (byteAt s.M i).getD (Config.freeByte s.tick i)

/-- `LEN3 ‖ LEN2 ‖ LEN1 ‖ LEN0`, the `Lc` of R115 (R34, R93). -/
def State.bitLength (s : State) : BitVec 128 := s.LEN3 ++ s.LEN2 ++ s.LEN1 ++ s.LEN0

/-- The variant latched in `VAR`, if its code is one (R28). -/
def State.variant? (s : State) : Option Variant := Variant.ofCode s.VAR

end Sys2Proof.Machine
end

