-- ==== Sys2Proof/Machine/Flags.lean ====
section
/-! DEFINITION. The flags and the STATUS register (spec/10_state.md R30, R33; 40_host_commands.md R112). The engine has no
arithmetic flag: "there is no carry, zero, sign or overflow flag" (R30, 00_scope.md R7). The operations that set and clear
`BUSY`, `DONE` and `ERR` stand in Machine/Ops.lean; the one condition that decides a flag stands here. -/

namespace Sys2Proof.Machine

open Sys2Proof

/-- `STATUS = zext_32(VAR ‖ ERR ‖ DONE ‖ BUSY)` (R112). -/
def State.status (s : State) : Word32 :=
  (s.VAR ++ BitVec.ofBool s.ERR ++ BitVec.ofBool s.DONE ++ BitVec.ofBool s.BUSY).setWidth 32

/-- `Lc > LMAX(v)`: the bit length does not fit the variant's length field (60_exceptions.md R240). Stated for both families
although it never holds in the 64-bit one (90_conflicts.md C8, U12). -/
def lengthOverflows (v : Variant) (len : BitVec 128) : Bool := decide (v.LMAX < len.toNat)

end Sys2Proof.Machine
end

