-- ==== Sys2Proof/Machine/Command.lean ====
section
/-! DEFINITION. The five `DIGEST` commands (spec/40_host_commands.md R115 to R118, R121 to R125; 60_exceptions.md R240, R241,
R245). They differ only in the variant. -/

namespace Sys2Proof.Machine

open Sys2Proof Host

/-- `IV_v` as elements of the family's width (10_state.md R36 to R40). -/
def ivElems : Variant → List Elem
  | .sha1 => IV_0.map .w32
  | .sha224 => IV_1.map .w32
  | .sha256 => IV_2.map .w32
  | .sha384 => IV_3.map .w64
  | .sha512 => IV_4.map .w64

/-- `NBLK = floor((n + LB) / B) + 1` with `n = L / 8` (R117; 41_padding.md R132). -/
def blockCount (v : Variant) (len : BitVec 128) : Nat := (len.toNat / 8 + v.LB) / v.B + 1

/-- `H[i] <- IV_v[i]` for `i` in 0 to `NV - 1` (R117). -/
def loadIV (v : Variant) (h : Vector Elem 8) : Vector Elem 8 :=
  fileMap (fun i e => if i < v.NV then (ivElems v).getD i .invalid else e) h

/-- Start an invocation (R117); `L` is already latched. -/
def State.start (s : State) (v : Variant) : State :=
  (((s.setH (loadIV v s.H)).setNBLK (BitVec.ofNat 119 (blockCount v s.L))).startBusy).setSEQ phasePAD 0#119 0#7

/-- What an accepted command latches and clears before it looks at the length (R115). -/
def State.accept (s : State) (v : Variant) : State := (s.latch v.code s.bitLength).clearResult

/-- A `DIGEST` command: while `BUSY = 1` the write is held (R116); otherwise it is accepted (R115), and raises
`LengthOverflow` (R240, R241), is refused (R118), or starts an invocation (R117), in that order (R245). -/
def digestCommand (v : Variant) (s : State) : Outcome State Fault Refusal :=
  if s.BUSY then .next (s.setHeld (some (commandWord v)))
  else if lengthOverflows v s.bitLength then .next (s.accept v).raiseLengthOverflow
  else if s.bitLength.toNat % 8 = 0 then .next ((s.accept v).start v)
  else .refused .unalignedLength

/-- `DIGEST.SHA1`, R121. -/
def execDigestSha1 (s : State) : Outcome State Fault Refusal := digestCommand .sha1 s

/-- `DIGEST.SHA224`, R122. -/
def execDigestSha224 (s : State) : Outcome State Fault Refusal := digestCommand .sha224 s

/-- `DIGEST.SHA256`, R123. -/
def execDigestSha256 (s : State) : Outcome State Fault Refusal := digestCommand .sha256 s

/-- `DIGEST.SHA384`, R124. -/
def execDigestSha384 (s : State) : Outcome State Fault Refusal := digestCommand .sha384 s

/-- `DIGEST.SHA512`, R125. -/
def execDigestSha512 (s : State) : Outcome State Fault Refusal := digestCommand .sha512 s

end Sys2Proof.Machine
end

