-- ==== Sys2Proof/Machine/Digest.lean ====
section
/-! DEFINITION. The Digest Assembler: `ACC` and the output selector (spec/44_digest.md). -/

namespace Sys2Proof.Machine

open Sys2Proof Host

/-- `H[i] <- H[i] +_ww V[i]` for `i` in 0 to `NV - 1` (R200). -/
def accumulate (v : Variant) (s : State) : Vector Elem 8 :=
  fileMap (fun i e => if i < v.NV then (if v.isFam64 then .w64 (s.h64 i + s.v64 i) else .w32 (s.h32 i + s.v32 i)) else e) s.H

/-- `ACC` (R200): on the last block `BUSY`, `DONE` and the last `H` are written together. -/
def execAcc (v : Variant) (s : State) : Outcome State Fault Refusal :=
  if s.BIDX.toNat + 1 = s.NBLK.toNat then .next ((s.setH (accumulate v s)).complete.setSEQ phaseIDLE 0#119 0#7)
  else .next ((s.setH (accumulate v s)).setSEQ phasePAD (s.BIDX + 1#119) 0#7)

/-- `DOUTj` of a variant while `DONE = 1` (R203, R204). -/
def doutOf (v : Variant) (s : State) (j : Nat) : Word32 :=
  if v.isFam64 then
    if j / 2 < v.NOUT then
      if j % 2 = 0 then (s.h64 (j / 2)).extractLsb' 32 32 else (s.h64 (j / 2)).extractLsb' 0 32
    else 0#32
  else if j < v.NOUT then s.h32 j
  else 0#32

/-- Is `DOUTj` one of the registers that hold the digest of the latched variant? If not, it reads 0 whatever `DONE` is (R203,
R204; 93_implementation_defined.md U9). A reserved `VAR` code, which no reachable state has, settles no register (log 5). -/
def State.inDigest (s : State) (j : Nat) : Bool :=
  match s.variant? with
  | some v => decide (j < v.doutCount)
  | none => true

/-- `DOUTj`, the output selector (R203, R204). Under a reserved `VAR` code, which no reachable state has, neither rule gives
a value and a free one is taken (assumption log 5). -/
def State.dout (s : State) (j : Nat) : Word32 :=
  if s.DONE then
    match s.variant? with
    | some v => doutOf v s j
    | none => (s.freeAt (96 + j)).setWidth 32
  else 0#32

end Sys2Proof.Machine
end

