-- ==== Sys2Proof/Machine/Padding.lean ====
section
/-! DEFINITION. The Padding Builder: `PADBLK` (spec/41_padding.md R130 to R136). -/

namespace Sys2Proof.Machine

open Sys2Proof Host

/-- The message length in bytes, `n = L / 8` (R130). -/
def State.msgBytes (s : State) : Nat := s.L.toNat / 8

/-- The total length in bytes of the Padded Buffer, `E = NBLK * B` (R133). -/
def State.padEnd (s : State) (v : Variant) : Nat := s.NBLK.toNat * v.B

/-- `PB(i)`, byte `i` of the Padded Buffer (R133). The rule gives it for `i < E`; past that it has no value, and a free one
is taken (assumption log 4: no reachable step asks for it). -/
def padByte (v : Variant) (s : State) (i : Nat) : Byte :=
  if i < s.padEnd v then
    if i < s.msgBytes then Memory.read s.MSG i
    else if i = s.msgBytes then 0x80#8
    else if i < s.padEnd v - v.LB then 0x00#8
    else beByte v.LB s.L (i - (s.padEnd v - v.LB))
  else Config.freeByte s.tick (128 + i)

/-- The `MSG` indices `PADBLK` reads for its block, in the order it reads them (R134; 20_memory.md R69). -/
def padReads (v : Variant) (s : State) : List Nat :=
  (List.range' (s.BIDX.toNat * v.B) v.B).filter (fun i => decide (i < s.msgBytes) && decide (i < s.padEnd v))

/-- `M[i] <- PB(BIDX * B + i)` for `i` in 0 to `B - 1` (R134). -/
def padBlock (v : Variant) (s : State) : Vector (Option Byte) 128 :=
  fileMap (fun i b => if i < v.B then some (padByte v s (s.BIDX.toNat * v.B + i)) else b) s.M

/-- `PADBLK` (R134). -/
def execPadblk (v : Variant) (s : State) : Outcome State Fault Refusal :=
  .next ((((s.setM (padBlock v s)).setW (uniformFile 80 .invalid)).logMsgReads (padReads v s)).setSEQ
    phaseSCHED s.BIDX 0#7)

end Sys2Proof.Machine
end

