-- ==== Sys2Proof/Machine/Rounds.lean ====
section
/-! DEFINITION. The Compression Round Engine: `LDV`, the four SHA-1 rounds, `RND.S256`, `RND.S512` (spec/43_rounds.md). -/

namespace Sys2Proof.Machine

open Sys2Proof Host

/-! ## Logical functions (R177 to R179) -/

/-- `Ch` (R177). -/
def ch {w : Nat} (x y z : BitVec w) : BitVec w := (x &&& y) ^^^ (~~~x &&& z)

/-- `Maj` (R177). -/
def maj {w : Nat} (x y z : BitVec w) : BitVec w := (x &&& y) ^^^ (x &&& z) ^^^ (y &&& z)

/-- `Parity` (R177). -/
def parity {w : Nat} (x y z : BitVec w) : BitVec w := x ^^^ y ^^^ z

/-- `Sigma0_256` (R178). -/
def bigSigma0_256 (x : Word32) : Word32 := rotr x 2 ^^^ rotr x 13 ^^^ rotr x 22

/-- `Sigma1_256` (R178). -/
def bigSigma1_256 (x : Word32) : Word32 := rotr x 6 ^^^ rotr x 11 ^^^ rotr x 25

/-- `Sigma0_512` (R179). -/
def bigSigma0_512 (x : Word64) : Word64 := rotr x 28 ^^^ rotr x 34 ^^^ rotr x 39

/-- `Sigma1_512` (R179). -/
def bigSigma1_512 (x : Word64) : Word64 := rotr x 14 ^^^ rotr x 18 ^^^ rotr x 41

/-! ## The rounds on working variables (R180, R181) -/

/-- The five working variables of SHA-1 (R22). -/
structure Work5 (α : Type) where
  a : α
  b : α
  c : α
  d : α
  e : α
  deriving DecidableEq, Repr

/-- The eight working variables of SHA-2 (R22). -/
structure Work8 (α : Type) where
  a : α
  b : α
  c : α
  d : α
  e : α
  f : α
  g : α
  h : α
  deriving DecidableEq, Repr

/-- The common SHA-1 round (R180): all right-hand sides use the values before the round. -/
def sha1Round (fn : Word32 → Word32 → Word32 → Word32) (k w : Word32) (x : Work5 Word32) : Work5 Word32 where
  a := rotl x.a 5 + fn x.b x.c x.d + x.e + k + w
  b := x.a
  c := rotl x.b 30
  d := x.c
  e := x.d

/-- `T1` of the SHA-2 round (R181). -/
def sha2T1 {n : Nat} (bigSigma1 : BitVec n → BitVec n) (k w : BitVec n) (x : Work8 (BitVec n)) : BitVec n :=
  x.h + bigSigma1 x.e + ch x.e x.f x.g + k + w

/-- `T2` of the SHA-2 round (R181). -/
def sha2T2 {n : Nat} (bigSigma0 : BitVec n → BitVec n) (x : Work8 (BitVec n)) : BitVec n :=
  bigSigma0 x.a + maj x.a x.b x.c

/-- The common SHA-2 round (R181): all right-hand sides use the values before the round. -/
def sha2Round {n : Nat} (bigSigma0 bigSigma1 : BitVec n → BitVec n) (k w : BitVec n) (x : Work8 (BitVec n)) :
    Work8 (BitVec n) where
  a := sha2T1 bigSigma1 k w x + sha2T2 bigSigma0 x
  b := x.a
  c := x.b
  d := x.c
  e := x.d + sha2T1 bigSigma1 k w x
  f := x.e
  g := x.f
  h := x.g

/-! ## The working variables in `V` -/

/-- `a` to `e`, read from `V[0..4]` in SHA-1. -/
def State.work5 (s : State) : Work5 Word32 := ⟨s.v32 0, s.v32 1, s.v32 2, s.v32 3, s.v32 4⟩

/-- `a` to `h`, read from `V[0..7]` in SHA-224 and SHA-256. -/
def State.work8x32 (s : State) : Work8 Word32 :=
  ⟨s.v32 0, s.v32 1, s.v32 2, s.v32 3, s.v32 4, s.v32 5, s.v32 6, s.v32 7⟩

/-- `a` to `h`, read from `V[0..7]` in SHA-384 and SHA-512. -/
def State.work8x64 (s : State) : Work8 Word64 :=
  ⟨s.v64 0, s.v64 1, s.v64 2, s.v64 3, s.v64 4, s.v64 5, s.v64 6, s.v64 7⟩

/-- Working variables in index order. -/
def Work5.toList {α : Type} (x : Work5 α) : List α := [x.a, x.b, x.c, x.d, x.e]

/-- Working variables in index order. -/
def Work8.toList {α : Type} (x : Work8 α) : List α := [x.a, x.b, x.c, x.d, x.e, x.f, x.g, x.h]

/-- Write a list of elements over the first elements of a file. -/
def overwrite {n : Nat} (es : List Elem) (xs : Vector Elem n) : Vector Elem n :=
  fileMap (fun i e => es.getD i e) xs

/-- A SHA-1 round with function `fn` and constant `K1[j]` (R180); it leaves `f`, `g`, `h` alone (R22). -/
def State.roundSha1 (s : State) (fn : Word32 → Word32 → Word32 → Word32) (j : Nat) (t : BitVec 7) : State :=
  (s.setV (overwrite ((sha1Round fn (k1 j) (s.w32 t.toNat) s.work5).toList.map .w32) s.V)).nextRound .sha1 t

/-- `V[i] <- H[i]` for `i` in 0 to `NV - 1` (R170). -/
def loadV (v : Variant) (s : State) : Vector Elem 8 :=
  fileMap (fun i e => if i < v.NV then (if v.isFam64 then .w64 (s.h64 i) else .w32 (s.h32 i)) else e) s.V

/-- `LDV` (R170). -/
def execLdv (v : Variant) (s : State) : Outcome State Fault Refusal :=
  .next ((s.setV (loadV v s)).setSEQ phaseROUND s.BIDX 0#7)

/-- `RND.SHA1.CH` (R171). -/
def execRndSha1Ch (t : BitVec 7) (s : State) : Outcome State Fault Refusal := .next (s.roundSha1 ch 0 t)

/-- `RND.SHA1.PAR1` (R172). -/
def execRndSha1Par1 (t : BitVec 7) (s : State) : Outcome State Fault Refusal := .next (s.roundSha1 parity 1 t)

/-- `RND.SHA1.MAJ` (R173). -/
def execRndSha1Maj (t : BitVec 7) (s : State) : Outcome State Fault Refusal := .next (s.roundSha1 maj 2 t)

/-- `RND.SHA1.PAR2` (R174). -/
def execRndSha1Par2 (t : BitVec 7) (s : State) : Outcome State Fault Refusal := .next (s.roundSha1 parity 3 t)

/-- `RND.S256` (R175). -/
def execRndS256 (v : Variant) (t : BitVec 7) (s : State) : Outcome State Fault Refusal :=
  .next ((s.setV (overwrite
    ((sha2Round bigSigma0_256 bigSigma1_256 (k256 t.toNat) (s.w32 t.toNat) s.work8x32).toList.map .w32) s.V)).nextRound
    v t)

/-- `RND.S512` (R176). -/
def execRndS512 (v : Variant) (t : BitVec 7) (s : State) : Outcome State Fault Refusal :=
  .next ((s.setV (overwrite
    ((sha2Round bigSigma0_512 bigSigma1_512 (k512 t.toNat) (s.w64 t.toNat) s.work8x64).toList.map .w64) s.V)).nextRound
    v t)

end Sys2Proof.Machine
end

