-- ==== Sys2Proof/Machine/Schedule.lean ====
section
/-! DEFINITION. The Message Schedule Expander: `WLD32`, `WLD64`, `WEXP.SHA1`, `WEXP.S256`, `WEXP.S512`
(spec/42_schedule.md). -/

namespace Sys2Proof.Machine

open Sys2Proof Host

/-- `sigma0_256` (R155). -/
def sigma0_256 (x : Word32) : Word32 := rotr x 7 ^^^ rotr x 18 ^^^ shr x 3

/-- `sigma1_256` (R155). -/
def sigma1_256 (x : Word32) : Word32 := rotr x 17 ^^^ rotr x 19 ^^^ shr x 10

/-- `sigma0_512` (R156). -/
def sigma0_512 (x : Word64) : Word64 := rotr x 1 ^^^ rotr x 8 ^^^ shr x 7

/-- `sigma1_512` (R156). -/
def sigma1_512 (x : Word64) : Word64 := rotr x 19 ^^^ rotr x 61 ^^^ shr x 6

/-- The raw word `t` of the 32-bit family: `BE_4(M[4t], ..., M[4t+3])` (R150). -/
def State.rawWord32 (s : State) (t : Nat) : Word32 :=
  be4 (s.m8 (4 * t)) (s.m8 (4 * t + 1)) (s.m8 (4 * t + 2)) (s.m8 (4 * t + 3))

/-- The raw word `t` of the 64-bit family: `BE_8(M[8t], ..., M[8t+7])` (R151). -/
def State.rawWord64 (s : State) (t : Nat) : Word64 :=
  be8 (s.m8 (8 * t)) (s.m8 (8 * t + 1)) (s.m8 (8 * t + 2)) (s.m8 (8 * t + 3))
    (s.m8 (8 * t + 4)) (s.m8 (8 * t + 5)) (s.m8 (8 * t + 6)) (s.m8 (8 * t + 7))

/-- The SHA-1 recurrence (R152). -/
def State.expandSha1 (s : State) (t : Nat) : Word32 :=
  rotl (s.w32 (t - 3) ^^^ s.w32 (t - 8) ^^^ s.w32 (t - 14) ^^^ s.w32 (t - 16)) 1

/-- The SHA-2 recurrence on 32-bit words (R153). -/
def State.expandS256 (s : State) (t : Nat) : Word32 :=
  sigma1_256 (s.w32 (t - 2)) + s.w32 (t - 7) + sigma0_256 (s.w32 (t - 15)) + s.w32 (t - 16)

/-- The SHA-2 recurrence on 64-bit words (R154). -/
def State.expandS512 (s : State) (t : Nat) : Word64 :=
  sigma1_512 (s.w64 (t - 2)) + s.w64 (t - 7) + sigma0_512 (s.w64 (t - 15)) + s.w64 (t - 16)

/-- `W[t] <- e; SEQ <- next position`. -/
def State.writeSched (s : State) (v : Variant) (t : BitVec 7) (e : Elem) : State :=
  (s.setW (fileSet s.W t.toNat e)).nextSched v t

/-- `WLD32` (R150). -/
def execWld32 (v : Variant) (t : BitVec 7) (s : State) : Outcome State Fault Refusal :=
  .next (s.writeSched v t (.w32 (s.rawWord32 t.toNat)))

/-- `WLD64` (R151). -/
def execWld64 (v : Variant) (t : BitVec 7) (s : State) : Outcome State Fault Refusal :=
  .next (s.writeSched v t (.w64 (s.rawWord64 t.toNat)))

/-- `WEXP.SHA1` (R152). -/
def execWexpSha1 (t : BitVec 7) (s : State) : Outcome State Fault Refusal :=
  .next (s.writeSched .sha1 t (.w32 (s.expandSha1 t.toNat)))

/-- `WEXP.S256` (R153). -/
def execWexpS256 (v : Variant) (t : BitVec 7) (s : State) : Outcome State Fault Refusal :=
  .next (s.writeSched v t (.w32 (s.expandS256 t.toNat)))

/-- `WEXP.S512` (R154). -/
def execWexpS512 (v : Variant) (t : BitVec 7) (s : State) : Outcome State Fault Refusal :=
  .next (s.writeSched v t (.w64 (s.expandS512 t.toNat)))

end Sys2Proof.Machine
end

