-- ==== Sys2Proof/Machine/Dispatch.lean ====
section
/-! DEFINITION. One arm per constructor of Instr, each one direct call of that instruction's meaning. -/

namespace Sys2Proof.Machine

open Sys2Proof

def exec (i : Instr) (s : State) : Host.Outcome State Fault Refusal :=
  match i with
  -- host commands, format H
  | .digestSha1 => Sys2Proof.Machine.execDigestSha1 s
  | .digestSha224 => Sys2Proof.Machine.execDigestSha224 s
  | .digestSha256 => Sys2Proof.Machine.execDigestSha256 s
  | .digestSha384 => Sys2Proof.Machine.execDigestSha384 s
  | .digestSha512 => Sys2Proof.Machine.execDigestSha512 s
  -- micro-operations, format S
  | .padblk v => Sys2Proof.Machine.execPadblk v s
  | .wld32 v t => Sys2Proof.Machine.execWld32 v t s
  | .wld64 v t => Sys2Proof.Machine.execWld64 v t s
  | .wexpSha1 t => Sys2Proof.Machine.execWexpSha1 t s
  | .wexpS256 v t => Sys2Proof.Machine.execWexpS256 v t s
  | .wexpS512 v t => Sys2Proof.Machine.execWexpS512 v t s
  | .ldv v => Sys2Proof.Machine.execLdv v s
  | .rndSha1Ch t => Sys2Proof.Machine.execRndSha1Ch t s
  | .rndSha1Par1 t => Sys2Proof.Machine.execRndSha1Par1 t s
  | .rndSha1Maj t => Sys2Proof.Machine.execRndSha1Maj t s
  | .rndSha1Par2 t => Sys2Proof.Machine.execRndSha1Par2 t s
  | .rndS256 v t => Sys2Proof.Machine.execRndS256 v t s
  | .rndS512 v t => Sys2Proof.Machine.execRndS512 v t s
  | .acc v => Sys2Proof.Machine.execAcc v s

end Sys2Proof.Machine
end

