-- ==== Sys2Proof/Machine/HostPort.lean ====
section
/-! DEFINITION. The host register port: reads and writes of the 32 registers (spec/10_state.md R31 to R35;
40_host_commands.md R110 to R119). -/

namespace Sys2Proof.Machine

open Sys2Proof Host

/-- `HostRead(n)` (R112 to R114): `STATUS`, `LEN0..LEN3`, `DOUT0..DOUT15`; every other number reads 0. -/
def State.hostRead (s : State) (n : BitVec 5) : Word32 :=
  if n = 1#5 then s.status
  else if n = 2#5 then s.LEN0
  else if n = 3#5 then s.LEN1
  else if n = 4#5 then s.LEN2
  else if n = 5#5 then s.LEN3
  else if 8 ≤ n.toNat ∧ n.toNat ≤ 23 then s.dout (n.toNat - 8)
  else 0#32

/-- A write of a command word to `CMD`: a reserved word is discarded (R119), a legal one is the command (R115, R116). -/
def writeCMD (w : Word32) (s : State) : Outcome State Fault Refusal :=
  match decodeCommand w with
  | .ok i => exec i s
  | .error _ => .next s

/-- `HostWrite(n, x)` (R110, R111). -/
def hostWrite (n : BitVec 5) (x : Word32) (s : State) : Outcome State Fault Refusal :=
  if n = 0#5 then writeCMD x s else .next (s.setLEN n x)

/-- One access of the host. -/
def hostAccess (a : Access) (s : State) : Outcome State Fault Refusal :=
  match a with
  | .read n => .next (s.logRead n (s.hostRead n))
  | .write n x => hostWrite n x s
  | .place addr b => .next (s.placeByte addr b)

/-! ## While `rst` is asserted (70_reset_and_hazards.md R270, R271) -/

/-- What `HostRead(n)` returns while `rst` is asserted. R270 gives the state its reset values "when it is released" and does
not say when, before that, each bit takes its own; the free value decides (log 10). A register the model reads bit for bit
(`STATUS`, `LEN0..LEN3`) returns each bit as it was or 0, its value after reset, so a register that reads 0 reads 0. A `DOUT`
register of the digest is free if the digest was there when `rst` was asserted; otherwise "`DONE` stays 0" (R271) and it reads 0
(R203, R204). A `DOUT` register past the digest reads 0 whatever `DONE` is: `VAR` is as it was or 0, and no variant's digest has
fewer registers than that of code 0. -/
def State.readInReset (s : State) (n : BitVec 5) : Word32 :=
  if 8 ≤ n.toNat ∧ n.toNat ≤ 23 then (if s.DONE && s.inDigest (n.toNat - 8) then Config.freeRead s.tick n.toNat else 0#32)
  else s.hostRead n &&& Config.freeRead s.tick n.toNat

/-- One access of the host while `rst` is asserted. The engine "accepts no host write" (R270): a write changes nothing and is
not held. A read has no side effect on the engine (R112 to R114). The message space is the host's, not the engine's (R60). -/
def accessInReset (a : Access) (s : State) : State :=
  match a with
  | .read n => (s.logRead n (s.readInReset n)).nextTick
  | .write _ _ => s
  | .place addr b => s.placeByte addr b

end Sys2Proof.Machine
end

