-- ==== Sys2Proof/Machine/Sequencer.lean ====
section
/-! DEFINITION. Whose step comes next, and the engine's own step (spec/45_sequencer.md R215; 00_scope.md R10; 70_reset_and_hazards.md
R270, R271). -/

namespace Sys2Proof.Machine

open Sys2Proof Host

/-- The step word `SW = VAR ‖ PHASE ‖ T` (R95, R215): this machine's fetch. -/
def State.stepWord (s : State) : BitVec 13 := packStepWord s.VAR s.PHASE s.T

/-- The engine's turn (R215): "When `PHASE = IDLE` the engine has no step", so the turn leaves the state as it is
(assumption log 9); otherwise the step word is decoded and its micro-operation performed. -/
def engineTurn (s : State) : Outcome State Fault Refusal :=
  if s.PHASE = phaseIDLE then .next s
  else
    match decodeStepWord s.stepWord with
    | .ok i => exec i s.nextTick
    | .error _ => .refused .reservedStepWord

/-- Is the next turn an edge of the input `rst`? -/
def State.rstNext (s : State) : Bool :=
  match s.turns with
  | .assertRst :: _ => true
  | .releaseRst :: _ => true
  | _ => false

/-- Does the next turn release an asserted `rst`? -/
def State.resetNext (s : State) : Bool :=
  match s.turns with
  | .releaseRst :: _ => s.RST
  | _ => false

/-- An edge of the input `rst`, which may come in any state (R271). Releasing what is not asserted is no edge. -/
def rstTurn (s : State) : State :=
  match s.turns with
  | .assertRst :: rest => (s.setTurns rest).assertReset
  | .releaseRst :: rest => if s.RST then (s.setTurns rest).afterReset else s.setTurns rest
  | _ => s

/-- The turns after an engine step: an engine turn is used up, a host turn stays (its host is waiting, R116). -/
def State.engineTurnTaken (s : State) : State :=
  match s.turns with
  | .engine :: rest => s.setTurns rest
  | _ => s

/-- The next step while `rst` is asserted: "the engine takes no step and accepts no host write" (R270). An engine turn is used
up without a step. -/
def resetTurn (s : State) : State :=
  match s.turns with
  | .host a :: rest => accessInReset a (s.setTurns rest)
  | _ => s.engineTurnTaken

/-- The next step when `rst` is not asserted and a `CMD` write of `w` is held (R116): the engine steps while `BUSY = 1`, then
the write is accepted "with the `LEN` values of that later moment". -/
def heldTurn (w : Word32) (s : State) : Outcome State Fault Refusal :=
  if s.BUSY then engineTurn s.engineTurnTaken else writeCMD w (s.setHeld none)

/-- The next step when `rst` is not asserted and nothing is held: the first turn of the list, or the engine's when the list is empty. -/
def freeTurn (s : State) : Outcome State Fault Refusal :=
  match s.turns with
  | .host a :: rest => hostAccess a (s.setTurns rest)
  | _ => engineTurn s.engineTurnTaken

/-- One step of the whole machine. -/
def takeTurn (s : State) : Outcome State Fault Refusal :=
  if s.rstNext then .next (rstTurn s)
  else if s.RST then .next (resetTurn s)
  else
    match s.held with
    | some w => heldTurn w s
    | none => freeTurn s

/-- Place a step word where the engine's next step takes it from: the three registers, with the engine's turn next and
`rst` released. -/
def State.withStepWord (s : State) (w : BitVec 13) : State :=
  { s with VAR := stepVar w, PHASE := stepPhase w, T := stepIndex w, turns := .engine :: s.turns, held := none, RST := false }

/-- Place a command word where the host's next step takes it from: a `CMD` write as the host's next access,
with `rst` released. -/
def State.withCommandWord (s : State) (w : Word32) : State :=
  { s with turns := .host (.write 0#5 w) :: s.turns, held := none, RST := false }

end Sys2Proof.Machine
end

