-- ==== Sys2Proof/Machine/Step.lean ====
section
/-! DEFINITION. One step, and the placing of an instruction where the next step takes it from. -/

namespace Sys2Proof.Machine

open Sys2Proof

/-- One step of the machine: one engine step, one host access, or one edge of `rst`. -/
def step (s : State) : Host.Outcome State Fault Refusal := takeTurn s

/-- The state whose next step runs the instruction of a table word: a command word is the host's next `CMD` write, a step word
stands in `VAR`, `PHASE` and `T` (assumption log 11). -/
def State.withFetchWord (s : State) (nbits w : Nat) : State :=
  match codeOfTableWord nbits w with
  | some (.command c) => s.withCommandWord c
  | some (.stepWord c) => s.withStepWord c
  | none => s

end Sys2Proof.Machine
end

