-- ==== Sys2Proof/Machine/Contract.lean ====
section
/-! DEFINITION. The digest as a pure function of variant, bit length and message: the end-to-end contract of
spec/40_host_commands.md R126, written over bytes and words alone, with no state. The machine never calls it; claims compare
the machine with it.

`H_0 = IV_v`, `H_{j+1} = H_j +_ww Compress_v(H_j, block j of PB)`, the digest is `H_NBLK[0 .. NOUT-1]`. -/

namespace Sys2Proof.Machine

open Sys2Proof

/-- The zero-padding length in bits, `k = (Bb - lfb - 1 - L) mod Bb` (41_padding.md R131); an integer remainder, in
`0 .. Bb - 1` also where the difference is negative (00_scope.md section 6.1). -/
def refZeroBits (v : Variant) (len : Nat) : Nat := (((v.Bb : Int) - v.lfb - 1 - len) % (v.Bb : Int)).toNat

/-- Byte `i` of the Padded Buffer of a message of `len` bits (R133). -/
def refPadByte (v : Variant) (len : BitVec 128) (msg : Nat → Byte) (i : Nat) : Byte :=
  if i < len.toNat / 8 then msg i
  else if i = len.toNat / 8 then 0x80#8
  else if i < blockCount v len * v.B - v.LB then 0x00#8
  else beByte v.LB len (i - (blockCount v len * v.B - v.LB))

/-- Byte `i` of block `j`. -/
def refBlockByte (v : Variant) (len : BitVec 128) (msg : Nat → Byte) (j i : Nat) : Byte :=
  refPadByte v len msg (j * v.B + i)

/-- Raw word `t` of block `j` in the 32-bit family (R64, R150). -/
def refRaw32 (v : Variant) (len : BitVec 128) (msg : Nat → Byte) (j t : Nat) : Word32 :=
  be4 (refBlockByte v len msg j (4 * t)) (refBlockByte v len msg j (4 * t + 1))
    (refBlockByte v len msg j (4 * t + 2)) (refBlockByte v len msg j (4 * t + 3))

/-- Raw word `t` of block `j` in the 64-bit family (R64, R151). -/
def refRaw64 (v : Variant) (len : BitVec 128) (msg : Nat → Byte) (j t : Nat) : Word64 :=
  be8 (refBlockByte v len msg j (8 * t)) (refBlockByte v len msg j (8 * t + 1))
    (refBlockByte v len msg j (8 * t + 2)) (refBlockByte v len msg j (8 * t + 3))
    (refBlockByte v len msg j (8 * t + 4)) (refBlockByte v len msg j (8 * t + 5))
    (refBlockByte v len msg j (8 * t + 6)) (refBlockByte v len msg j (8 * t + 7))

/-- The first `n` words of a schedule: 16 raw words, then the recurrence over the words before (R24, R157). -/
def refSchedule {w : Nat} (raw : Nat → BitVec w) (next : (Nat → BitVec w) → Nat → BitVec w) : Nat → List (BitVec w)
  | 0 => []
  | n + 1 =>
    let ws := refSchedule raw next n
    ws ++ [if n < 16 then raw n else next (fun i => ws.getD i 0#w) n]

/-- The SHA-1 recurrence (R152). -/
def refNextSha1 (ws : Nat → Word32) (t : Nat) : Word32 :=
  rotl (ws (t - 3) ^^^ ws (t - 8) ^^^ ws (t - 14) ^^^ ws (t - 16)) 1

/-- The SHA-2 recurrence on 32-bit words (R153). -/
def refNextS256 (ws : Nat → Word32) (t : Nat) : Word32 :=
  sigma1_256 (ws (t - 2)) + ws (t - 7) + sigma0_256 (ws (t - 15)) + ws (t - 16)

/-- The SHA-2 recurrence on 64-bit words (R154). -/
def refNextS512 (ws : Nat → Word64) (t : Nat) : Word64 :=
  sigma1_512 (ws (t - 2)) + ws (t - 7) + sigma0_512 (ws (t - 15)) + ws (t - 16)

/-- Rounds 0 to `n - 1`, in order. -/
def refRounds {α : Type} (round : Nat → α → α) : Nat → α → α
  | 0, x => x
  | n + 1, x => round n (refRounds round n x)

/-- The SHA-1 round function of round `t` (R171 to R174). -/
def refSha1Fn (t : Nat) : Word32 → Word32 → Word32 → Word32 :=
  if t < 20 then ch else if t < 40 then parity else if t < 60 then maj else parity

/-- `Compress` of SHA-1 from a schedule (R126, R180). -/
def refCompressSha1 (ws : List Word32) (x : Work5 Word32) : Work5 Word32 :=
  refRounds (fun t y => sha1Round (refSha1Fn t) (k1 (t / 20)) (ws.getD t 0#32) y) 80 x

/-- `Compress` of SHA-224 and SHA-256 from a schedule (R126, R175). -/
def refCompressS256 (ws : List Word32) (x : Work8 Word32) : Work8 Word32 :=
  refRounds (fun t y => sha2Round bigSigma0_256 bigSigma1_256 (k256 t) (ws.getD t 0#32) y) 64 x

/-- `Compress` of SHA-384 and SHA-512 from a schedule (R126, R176). -/
def refCompressS512 (ws : List Word64) (x : Work8 Word64) : Work8 Word64 :=
  refRounds (fun t y => sha2Round bigSigma0_512 bigSigma1_512 (k512 t) (ws.getD t 0#64) y) 80 x

/-- Word by word addition. -/
def Work5.add {w : Nat} (x y : Work5 (BitVec w)) : Work5 (BitVec w) :=
  ⟨x.a + y.a, x.b + y.b, x.c + y.c, x.d + y.d, x.e + y.e⟩

/-- Word by word addition. -/
def Work8.add {w : Nat} (x y : Work8 (BitVec w)) : Work8 (BitVec w) :=
  ⟨x.a + y.a, x.b + y.b, x.c + y.c, x.d + y.d, x.e + y.e, x.f + y.f, x.g + y.g, x.h + y.h⟩

/-- The five words of a list. -/
def Work5.ofList {w : Nat} (xs : List (BitVec w)) : Work5 (BitVec w) :=
  ⟨xs.getD 0 0#w, xs.getD 1 0#w, xs.getD 2 0#w, xs.getD 3 0#w, xs.getD 4 0#w⟩

/-- The eight words of a list. -/
def Work8.ofList {w : Nat} (xs : List (BitVec w)) : Work8 (BitVec w) :=
  ⟨xs.getD 0 0#w, xs.getD 1 0#w, xs.getD 2 0#w, xs.getD 3 0#w, xs.getD 4 0#w, xs.getD 5 0#w, xs.getD 6 0#w, xs.getD 7 0#w⟩

/-- `H_j` of SHA-1. -/
def refHashSha1 (len : BitVec 128) (msg : Nat → Byte) : Nat → Work5 Word32
  | 0 => Work5.ofList IV_0
  | j + 1 =>
    let h := refHashSha1 len msg j
    h.add (refCompressSha1 (refSchedule (refRaw32 .sha1 len msg j) refNextSha1 80) h)

/-- `H_j` of SHA-224 (from `IV_1`) or SHA-256 (from `IV_2`). -/
def refHashS256 (v : Variant) (iv : List Word32) (len : BitVec 128) (msg : Nat → Byte) : Nat → Work8 Word32
  | 0 => Work8.ofList iv
  | j + 1 =>
    let h := refHashS256 v iv len msg j
    h.add (refCompressS256 (refSchedule (refRaw32 v len msg j) refNextS256 64) h)

/-- `H_j` of SHA-384 (from `IV_3`) or SHA-512 (from `IV_4`). -/
def refHashS512 (v : Variant) (iv : List Word64) (len : BitVec 128) (msg : Nat → Byte) : Nat → Work8 Word64
  | 0 => Work8.ofList iv
  | j + 1 =>
    let h := refHashS512 v iv len msg j
    h.add (refCompressS512 (refSchedule (refRaw64 v len msg j) refNextS512 80) h)

/-- `H_j[0 .. NV-1]` of a variant, as elements of its width. -/
def refHash (v : Variant) (len : BitVec 128) (msg : Nat → Byte) (j : Nat) : List Elem :=
  match v with
  | .sha1 => (refHashSha1 len msg j).toList.map .w32
  | .sha224 => (refHashS256 .sha224 IV_1 len msg j).toList.map .w32
  | .sha256 => (refHashS256 .sha256 IV_2 len msg j).toList.map .w32
  | .sha384 => (refHashS512 .sha384 IV_3 len msg j).toList.map .w64
  | .sha512 => (refHashS512 .sha512 IV_4 len msg j).toList.map .w64

/-- The number of engine steps from acceptance to `DONE`, `NBLK * (2R + 3)` (45_sequencer.md R218). -/
def refSteps (v : Variant) (len : BitVec 128) : Nat := blockCount v len * (2 * v.R + 3)

end Sys2Proof.Machine
end

