-- ==== Sys2Proof/Safety.lean ====
section
/-! DEFINITION. What counts as a safe state and a safe read, in the terms the claims use: the invariant of the machine
(spec/10_state.md R24 to R30, R44; 45_sequencer.md R216; 30_encoding.md R97), the elements a micro-operation reads, and the
parts of the state a frame leaves alone. -/

namespace Sys2Proof.Machine

open Sys2Proof

/-- The element holds a word of the variant's width (R23, R44). -/
def Elem.holds (v : Variant) : Elem → Bool
  | .invalid => false
  | .w32 _ => v.isFam32
  | .w64 _ => v.isFam64

/-! ## The invariant -/

/-- Position, parameters and flags. -/
structure State.ControlInv (s : State) : Prop where
  /-- `VAR` is a variant code: "Codes 5, 6, 7 are never latched" (R28) -/
  variant : s.VAR.toNat ≤ 4
  /-- "Codes 6 and 7 are never produced by any rule" (R26) -/
  phase : s.PHASE.toNat ≤ 5
  /-- "`BUSY = 1` exactly when `PHASE != IDLE`" (R30) -/
  busy : s.BUSY = true ↔ s.PHASE ≠ phaseIDLE
  /-- "At most one of the three is 1 at any time" (R30) -/
  oneFlag : ¬(s.BUSY = true ∧ s.DONE = true) ∧ ¬(s.BUSY = true ∧ s.ERR = true) ∧ ¬(s.DONE = true ∧ s.ERR = true)
  /-- the idle position is `(IDLE, 0, 0)` (R216) -/
  idle : s.PHASE = phaseIDLE → s.BIDX = 0#119 ∧ s.T = 0#7
  /-- "`T` never exceeds `R - 1`" (R25) -/
  index : ∀ v, s.variant? = some v → s.T.toNat < v.R
  /-- `T = 0` in phases `PAD`, `LDV`, `ACC` (R97) -/
  noIndex : s.PHASE = phasePAD ∨ s.PHASE = phaseLDV ∨ s.PHASE = phaseACC → s.T = 0#7
  /-- "`BIDX` never exceeds `NBLK - 1`" (R25) -/
  block : s.BUSY = true → s.BIDX.toNat < s.NBLK.toNat
  /-- a running or finished invocation has a length in range and its block count (R115, R117, R130) -/
  length : ∀ v, s.variant? = some v → s.BUSY = true ∨ s.DONE = true →
    s.L.toNat ≤ v.LMAX ∧ s.L.toNat % 8 = 0 ∧ s.NBLK.toNat = blockCount v s.L
  /-- `ERR = 1` means `LengthOverflow` and nothing else (R30, R240) -/
  error : ∀ v, s.variant? = some v → s.ERR = true → v.LMAX < s.L.toNat
  /-- "all three are 0 after reset and after nothing else" (R30): then the engine's registers hold their reset values -/
  fresh : s.BUSY = false → s.DONE = false → s.ERR = false →
    s.VAR = 0#3 ∧ s.L = 0#128 ∧ s.NBLK = 0#119 ∧ s.H = State.reset.H ∧ s.V = State.reset.V ∧ s.W = State.reset.W ∧
      s.M = State.reset.M

/-- What the datapath holds at each position (R44). -/
structure State.DataInv (s : State) : Prop where
  /-- the Hash State of a running or finished invocation -/
  hash : ∀ v, s.variant? = some v → s.BUSY = true ∨ s.DONE = true → ∀ i, i < v.NV → (elemAt s.H i).holds v = true
  /-- the block buffer while the schedule is computed -/
  buffer : ∀ v, s.variant? = some v → s.PHASE = phaseSCHED → ∀ i, i < v.B → (byteAt s.M i).isSome = true
  /-- the schedule words computed so far -/
  written : ∀ v, s.variant? = some v → s.PHASE = phaseSCHED → ∀ t, t < s.T.toNat → (elemAt s.W t).holds v = true
  /-- no schedule word of an earlier block or invocation is left (R24, R157) -/
  unwritten : s.PHASE = phaseSCHED → ∀ t, s.T.toNat ≤ t → elemAt s.W t = .invalid
  /-- the whole schedule, once computed -/
  schedule : ∀ v, s.variant? = some v → s.PHASE = phaseLDV ∨ s.PHASE = phaseROUND → ∀ t, t < v.R →
    (elemAt s.W t).holds v = true
  /-- the Working State, once loaded -/
  working : ∀ v, s.variant? = some v → s.PHASE = phaseROUND ∨ s.PHASE = phaseACC → ∀ i, i < v.NV →
    (elemAt s.V i).holds v = true

/-- The invariant of the machine. -/
structure State.Inv (s : State) : Prop where
  control : s.ControlInv
  data : s.DataInv
  /-- `MSG` is in canonical form -/
  msg : Memory.wf s.MSG = true
  /-- only a legal command word is ever held (R116, R119) -/
  held : ∀ w, s.held = some w → ∃ v, w = commandWord v
  /-- no command is held while `rst` is asserted: it "accepts no host write" and drops the held one (R270, R271) -/
  dropped : s.RST = true → s.held = none

/-! ## Reads -/

/-- The elements of `H`, `V`, `W` and bytes of `M` that a micro-operation reads, each of them holding a word of the width it
is read with: R44's "No reachable step reads an `invalid` element", for one step. A command reads none of them. -/
def sourcesValid (i : Instr) (s : State) : Prop :=
  match i with
  | .digestSha1 => True
  | .digestSha224 => True
  | .digestSha256 => True
  | .digestSha384 => True
  | .digestSha512 => True
  | .padblk _ => True
  | .wld32 _ t => ∀ j, j < 4 → (byteAt s.M (4 * t.toNat + j)).isSome = true
  | .wld64 _ t => ∀ j, j < 8 → (byteAt s.M (8 * t.toNat + j)).isSome = true
  | .wexpSha1 t => ∀ d, d = 3 ∨ d = 8 ∨ d = 14 ∨ d = 16 → (elemAt s.W (t.toNat - d)).holds .sha1 = true
  | .wexpS256 v t => ∀ d, d = 2 ∨ d = 7 ∨ d = 15 ∨ d = 16 → (elemAt s.W (t.toNat - d)).holds v = true
  | .wexpS512 v t => ∀ d, d = 2 ∨ d = 7 ∨ d = 15 ∨ d = 16 → (elemAt s.W (t.toNat - d)).holds v = true
  | .ldv v => ∀ k, k < v.NV → (elemAt s.H k).holds v = true
  | .rndSha1Ch t => (elemAt s.W t.toNat).holds .sha1 = true ∧ ∀ k, k < 5 → (elemAt s.V k).holds .sha1 = true
  | .rndSha1Par1 t => (elemAt s.W t.toNat).holds .sha1 = true ∧ ∀ k, k < 5 → (elemAt s.V k).holds .sha1 = true
  | .rndSha1Maj t => (elemAt s.W t.toNat).holds .sha1 = true ∧ ∀ k, k < 5 → (elemAt s.V k).holds .sha1 = true
  | .rndSha1Par2 t => (elemAt s.W t.toNat).holds .sha1 = true ∧ ∀ k, k < 5 → (elemAt s.V k).holds .sha1 = true
  | .rndS256 v t => (elemAt s.W t.toNat).holds v = true ∧ ∀ k, k < 8 → (elemAt s.V k).holds v = true
  | .rndS512 v t => (elemAt s.W t.toNat).holds v = true ∧ ∀ k, k < 8 → (elemAt s.V k).holds v = true
  | .acc v => ∀ k, k < v.NV → (elemAt s.H k).holds v = true ∧ (elemAt s.V k).holds v = true

/-! ## Frames -/

/-- The latched parameters are as before. -/
structure State.KeepsParameters (s t : State) : Prop where
  VAR : t.VAR = s.VAR
  L : t.L = s.L
  NBLK : t.NBLK = s.NBLK

/-- The flags are as before. -/
structure State.KeepsFlags (s t : State) : Prop where
  BUSY : t.BUSY = s.BUSY
  DONE : t.DONE = s.DONE
  ERR : t.ERR = s.ERR

/-- The sequencer position is as before. -/
structure State.KeepsPosition (s t : State) : Prop where
  PHASE : t.PHASE = s.PHASE
  BIDX : t.BIDX = s.BIDX
  T : t.T = s.T

/-- The datapath is as before. -/
structure State.KeepsDatapath (s t : State) : Prop where
  H : t.H = s.H
  V : t.V = s.V
  W : t.W = s.W
  M : t.M = s.M

/-- The length registers are as before. -/
structure State.KeepsLEN (s t : State) : Prop where
  LEN0 : t.LEN0 = s.LEN0
  LEN1 : t.LEN1 = s.LEN1
  LEN2 : t.LEN2 = s.LEN2
  LEN3 : t.LEN3 = s.LEN3

/-- Every byte of `MSG` reads as before. -/
def State.KeepsMSG (s t : State) : Prop := ∀ a, Memory.read t.MSG a = Memory.read s.MSG a

/-- The input `rst` and the model's own fields are as before, but for the record of `MSG` reads. -/
structure State.KeepsEnvironment (s t : State) : Prop where
  RST : t.RST = s.RST
  turns : t.turns = s.turns
  held : t.held = s.held
  reads : t.reads = s.reads
  tick : t.tick = s.tick

/-- What every micro-operation but `PADBLK` and `ACC` leaves alone beside the datapath. -/
structure State.KeepsRest (s t : State) : Prop where
  parameters : s.KeepsParameters t
  flags : s.KeepsFlags t
  len : s.KeepsLEN t
  msg : s.KeepsMSG t
  environment : s.KeepsEnvironment t
  msgReads : t.msgReads = s.msgReads

/-- The engine, the message and the level of `rst` are as before. -/
structure State.SameEngine (s t : State) : Prop where
  datapath : s.KeepsDatapath t
  position : s.KeepsPosition t
  parameters : s.KeepsParameters t
  flags : s.KeepsFlags t
  len : s.KeepsLEN t
  msg : s.KeepsMSG t
  rst : t.RST = s.RST

/-- Every piece of engine state has the value R48 gives it after reset. -/
structure State.HasResetValues (t : State) : Prop where
  BUSY : t.BUSY = false
  DONE : t.DONE = false
  ERR : t.ERR = false
  PHASE : t.PHASE = phaseIDLE
  BIDX : t.BIDX = 0#119
  T : t.T = 0#7
  VAR : t.VAR = 0#3
  L : t.L = 0#128
  NBLK : t.NBLK = 0#119
  LEN0 : t.LEN0 = 0#32
  LEN1 : t.LEN1 = 0#32
  LEN2 : t.LEN2 = 0#32
  LEN3 : t.LEN3 = 0#32
  H : ∀ i, elemAt t.H i = .invalid
  V : ∀ i, elemAt t.V i = .invalid
  W : ∀ i, elemAt t.W i = .invalid
  M : ∀ i, byteAt t.M i = none

/-- The engine alone takes every turn: no host turn, no edge of `rst` and no held command is waiting, and `rst` is released. -/
def State.engineAlone (s : State) : Prop := s.turns = [] ∧ s.held = none ∧ s.RST = false

/-- The engine steps left in the block at the position, of the block's `2R + 3` (45_sequencer.md R217). -/
def stepsLeftInBlock (v : Variant) (s : State) : Nat :=
  if s.PHASE = phasePAD then 2 * v.R + 3
  else if s.PHASE = phaseSCHED then 2 * v.R + 2 - s.T.toNat
  else if s.PHASE = phaseLDV then v.R + 2
  else if s.PHASE = phaseROUND then v.R + 1 - s.T.toNat
  else if s.PHASE = phaseACC then 1
  else 0

/-- The engine steps left in the invocation (R218). -/
def stepsLeft (v : Variant) (s : State) : Nat :=
  if s.PHASE = phaseIDLE then 0
  else (s.NBLK.toNat - s.BIDX.toNat - 1) * (2 * v.R + 3) + stepsLeftInBlock v s

/-- The states a run from reset can come to, whatever the turns: the turns are the environment's, so any list of turns may
stand in the state at any time. -/
inductive Reachable : State → Prop where
  | reset : Reachable State.reset
  | step (s t : State) : Reachable s → step s = .next t → Reachable t
  | environment (s : State) (ts : List Turn) : Reachable s → Reachable (s.setTurns ts)

end Sys2Proof.Machine
end

