-- ==== Sys2Proof/Certificates/Slice0/Obligations.lean ====
section
/-! DEFINITION. The statements for the provers. Each docstring says which rule of spec/ it formalises, or what it rests on. A
rule R<n> is named by its number; `log <n>` is notes/assumptions/<n>.md. -/

open Sys2Proof Sys2Proof.Machine Host

/-! ## Encoding (30_encoding.md) -/

/-- Decoding an encoded well-formed instruction gives it back, for every instruction and every operand its encoding admits. -/
def Obligations.DecodeOfEncode : Prop :=
  ∀ i : Instr, i.wf = true → decode (encode i) = .ok i

/-- A word that decodes is the word of a well-formed instruction, and of that one alone: no bit of it is dropped. -/
def Obligations.EncodeOfDecode : Prop :=
  ∀ (c : Code) (i : Instr), decode c = .ok i → i.wf = true ∧ encode i = c

/-- R92: the five legal command words, every bit of each fixed; any other word is rejected. -/
def Obligations.CommandWordTable : Prop :=
  ∀ w : Word32,
    (decodeCommand w = .ok .digestSha1 ↔ w = 0x00000010#32) ∧
    (decodeCommand w = .ok .digestSha224 ↔ w = 0x00000011#32) ∧
    (decodeCommand w = .ok .digestSha256 ↔ w = 0x00000012#32) ∧
    (decodeCommand w = .ok .digestSha384 ↔ w = 0x00000013#32) ∧
    (decodeCommand w = .ok .digestSha512 ↔ w = 0x00000014#32) ∧
    (w ≠ 0x00000010#32 → w ≠ 0x00000011#32 → w ≠ 0x00000012#32 → w ≠ 0x00000013#32 → w ≠ 0x00000014#32 →
      decodeCommand w = .error .reservedCommand)

/-- R96: the decode table of the step word, row by row, and that it covers every step word a reachable state with
`PHASE != 0` can have. -/
def Obligations.StepWordTable : Prop :=
  (∀ (w : BitVec 13) (i : Instr), decodeStepWord w = .ok i ↔ ∃ v : Variant, v.code = stepVar w ∧
    ((stepPhase w = 1#3 ∧ stepIndex w = 0#7 ∧ i = .padblk v) ∨
     (stepPhase w = 2#3 ∧ v.code.toNat ≤ 2 ∧ (stepIndex w).toNat ≤ 15 ∧ i = .wld32 v (stepIndex w)) ∨
     (stepPhase w = 2#3 ∧ 3 ≤ v.code.toNat ∧ (stepIndex w).toNat ≤ 15 ∧ i = .wld64 v (stepIndex w)) ∨
     (stepPhase w = 2#3 ∧ v.code.toNat = 0 ∧ 16 ≤ (stepIndex w).toNat ∧ (stepIndex w).toNat ≤ 79 ∧
        i = .wexpSha1 (stepIndex w)) ∨
     (stepPhase w = 2#3 ∧ 1 ≤ v.code.toNat ∧ v.code.toNat ≤ 2 ∧ 16 ≤ (stepIndex w).toNat ∧ (stepIndex w).toNat ≤ 63 ∧
        i = .wexpS256 v (stepIndex w)) ∨
     (stepPhase w = 2#3 ∧ 3 ≤ v.code.toNat ∧ 16 ≤ (stepIndex w).toNat ∧ (stepIndex w).toNat ≤ 79 ∧
        i = .wexpS512 v (stepIndex w)) ∨
     (stepPhase w = 3#3 ∧ stepIndex w = 0#7 ∧ i = .ldv v) ∨
     (stepPhase w = 4#3 ∧ v.code.toNat = 0 ∧ (stepIndex w).toNat ≤ 19 ∧ i = .rndSha1Ch (stepIndex w)) ∨
     (stepPhase w = 4#3 ∧ v.code.toNat = 0 ∧ 20 ≤ (stepIndex w).toNat ∧ (stepIndex w).toNat ≤ 39 ∧
        i = .rndSha1Par1 (stepIndex w)) ∨
     (stepPhase w = 4#3 ∧ v.code.toNat = 0 ∧ 40 ≤ (stepIndex w).toNat ∧ (stepIndex w).toNat ≤ 59 ∧
        i = .rndSha1Maj (stepIndex w)) ∨
     (stepPhase w = 4#3 ∧ v.code.toNat = 0 ∧ 60 ≤ (stepIndex w).toNat ∧ (stepIndex w).toNat ≤ 79 ∧
        i = .rndSha1Par2 (stepIndex w)) ∨
     (stepPhase w = 4#3 ∧ 1 ≤ v.code.toNat ∧ v.code.toNat ≤ 2 ∧ (stepIndex w).toNat ≤ 63 ∧ i = .rndS256 v (stepIndex w)) ∨
     (stepPhase w = 4#3 ∧ 3 ≤ v.code.toNat ∧ (stepIndex w).toNat ≤ 79 ∧ i = .rndS512 v (stepIndex w)) ∨
     (stepPhase w = 5#3 ∧ stepIndex w = 0#7 ∧ i = .acc v))) ∧
  (∀ s : State, Reachable s → s.PHASE ≠ phaseIDLE → ∃ i, decodeStepWord s.stepWord = .ok i)

/-- R97: the step words outside the table of R96, each rejected by the decoder under its own name. The refusal is the spec's
own advice to a model. -/
def Obligations.StepWordsOutsideTheTable : Prop :=
  ∀ w : BitVec 13,
    (stepPhase w = 0#3 → decodeStepWord w = .error .idlePhase) ∧
    (stepPhase w ≠ 0#3 → 5 ≤ (stepVar w).toNat → decodeStepWord w = .error .reservedVariant) ∧
    ((stepVar w).toNat ≤ 4 → 6 ≤ (stepPhase w).toNat → decodeStepWord w = .error .reservedPhase) ∧
    ((stepVar w).toNat ≤ 4 → (stepPhase w = 1#3 ∨ stepPhase w = 3#3 ∨ stepPhase w = 5#3) → stepIndex w ≠ 0#7 →
      decodeStepWord w = .error .nonzeroIndex) ∧
    (∀ v : Variant, v.code = stepVar w → (stepPhase w = 2#3 ∨ stepPhase w = 4#3) → v.R ≤ (stepIndex w).toNat →
      decodeStepWord w = .error .indexBeyondRounds)

/-- A few words written out from the encodings of R92 and R96 (the step words are those of 95_test_vectors.md section 2.7):
each decodes to the instruction it stands for. -/
def Obligations.SampleWordsDecode : Prop :=
  decodeTableWord 32 0x00000012 = some .digestSha256 ∧
  decodeTableWord 16 0x0080 = some (.padblk .sha1) ∧
  decodeTableWord 16 0x010F = some (.wld32 .sha1 15#7) ∧
  decodeTableWord 16 0x1110 = some (.wexpS512 .sha512 16#7) ∧
  decodeTableWord 16 0x0980 = some (.ldv .sha256) ∧
  decodeTableWord 16 0x0228 = some (.rndSha1Maj 40#7) ∧
  decodeTableWord 16 0x1280 = some (.acc .sha512) ∧
  decodeTableWord 32 0x00000015 = none ∧
  decodeTableWord 16 0x0281 = none

/-! ## Reset (10_state.md R48, 70_reset_and_hazards.md) -/

/-- R48: the state after reset, `rst` released, and what every host register reads as in it. -/
def Obligations.ResetState : Prop :=
  State.reset.BUSY = false ∧ State.reset.DONE = false ∧ State.reset.ERR = false ∧
  State.reset.PHASE = phaseIDLE ∧ State.reset.BIDX = 0#119 ∧ State.reset.T = 0#7 ∧
  State.reset.VAR = 0#3 ∧ State.reset.L = 0#128 ∧ State.reset.NBLK = 0#119 ∧
  State.reset.LEN0 = 0#32 ∧ State.reset.LEN1 = 0#32 ∧ State.reset.LEN2 = 0#32 ∧ State.reset.LEN3 = 0#32 ∧
  (∀ i, elemAt State.reset.H i = .invalid) ∧ (∀ i, elemAt State.reset.V i = .invalid) ∧
  (∀ t, elemAt State.reset.W t = .invalid) ∧ (∀ i, byteAt State.reset.M i = none) ∧
  State.reset.RST = false ∧ (∀ n, State.reset.hostRead n = 0#32)

/-- R271: reset in any state, also while an invocation runs, for as long as `rst` stays asserted and whatever turns come
meanwhile: the invocation is lost, `DONE` stays 0, no digest is produced or readable then or after, the Hash State is
`invalid`, the message is not affected (it is what the host's placings leave), a held command is dropped. R270: no engine step
and no host write meanwhile, and the values of R48 at the release. R203, R204: a `DOUT` register past the digest reads 0 whatever
`DONE` is. The model's choices in it (log 10, 6): the held command is dropped at the assertion; a turn of the engine and a host
write made meanwhile are used up and lost, which is why the run has `us.length + 2` steps; the registers keep their values until
the release; and a read made meanwhile is answered, with what log 10 says. -/
def Obligations.ResetTurnLosesTheInvocation : Prop :=
  ∀ (s : State) (us ts : List Turn), s.turns = .assertRst :: (us ++ .releaseRst :: ts) → .releaseRst ∉ us →
    (∃ a, step s = .next a ∧ a.held = none) ∧
    (∃ t rs, core.run (us.length + 2) s = .next t ∧ t.HasResetValues ∧ t.RST = false ∧ t.held = none ∧ t.turns = ts ∧
      t.reads = s.reads ++ rs ∧ t.msgReads = s.msgReads ∧
      (∀ r ∈ rs,
        (8 ≤ r.1.toNat → (s.DONE = false ∨ ∃ v, s.variant? = some v ∧ v.doutCount ≤ r.1.toNat - 8) → r.2 = 0#32) ∧
        (s.DONE = false → r.1 = 1#5 → r.2.getLsbD 1 = false)) ∧
      ((∀ a b, .host (.place a b) ∉ us) → s.KeepsMSG t)) ∧
    (s.DONE = false → ∀ k u, k ≤ us.length + 2 → core.run k s = .next u → u.DONE = false)

/-! ## Host accesses (40_host_commands.md section 1), `rst` released: R270 says what becomes of them while it is asserted -/

/-- R111: a write of register 2 to 5 changes that `LEN` register and nothing else; it is allowed in every state, `BUSY = 1`
included (while `rst` is asserted it is not accepted, R270: `AssertedResetStopsTheEngine`). -/
def Obligations.HostWriteOfLEN : Prop :=
  ∀ (s : State) (ts : List Turn) (n : BitVec 5) (x : Word32), s.turns = .host (.write n x) :: ts → s.held = none →
    s.RST = false → 2 ≤ n.toNat → n.toNat ≤ 5 → ∃ t, step s = .next t ∧
      t.LEN0 = (if n.toNat = 2 then x else s.LEN0) ∧ t.LEN1 = (if n.toNat = 3 then x else s.LEN1) ∧
      t.LEN2 = (if n.toNat = 4 then x else s.LEN2) ∧ t.LEN3 = (if n.toNat = 5 then x else s.LEN3) ∧
      s.KeepsDatapath t ∧ s.KeepsPosition t ∧ s.KeepsParameters t ∧ s.KeepsFlags t ∧ s.KeepsMSG t ∧
      t.RST = false ∧ t.turns = ts ∧ t.held = none ∧ t.reads = s.reads ∧ t.msgReads = s.msgReads

/-- R112: a read of `STATUS`. -/
def Obligations.HostReadOfSTATUS : Prop :=
  ∀ (s : State) (ts : List Turn), s.turns = .host (.read 1#5) :: ts → s.held = none → s.RST = false →
    ∃ t x, step s = .next t ∧
    x.toNat = 8 * s.VAR.toNat + 4 * s.ERR.toNat + 2 * s.DONE.toNat + s.BUSY.toNat ∧
    t.reads = s.reads ++ [(1#5, x)] ∧ s.SameEngine t ∧ t.turns = ts ∧ t.held = none ∧ t.msgReads = s.msgReads

/-- R113: a read of `LEN0` to `LEN3`: the register, which holds the last value written to it, or 0 if none since reset. The third
clause names the release of an asserted `rst` as the one other step that changes it: that the register keeps its value at the
assertion and takes its reset value at the release is the model's choice (log 10). -/
def Obligations.HostReadOfLEN : Prop :=
  (∀ (s : State) (ts : List Turn) (n : BitVec 5), s.turns = .host (.read n) :: ts → s.held = none →
    s.RST = false → 2 ≤ n.toNat → n.toNat ≤ 5 → ∃ t x, step s = .next t ∧
      (n.toNat = 2 → x = s.LEN0) ∧ (n.toNat = 3 → x = s.LEN1) ∧ (n.toNat = 4 → x = s.LEN2) ∧ (n.toNat = 5 → x = s.LEN3) ∧
      t.reads = s.reads ++ [(n, x)] ∧ s.SameEngine t ∧ t.turns = ts ∧ t.held = none ∧ t.msgReads = s.msgReads) ∧
  (∀ (s : State) (ts : List Turn) (n : BitVec 5) (x : Word32),
    s.turns = .host (.write n x) :: .host (.read n) :: ts → s.held = none → s.RST = false → 2 ≤ n.toNat →
    n.toNat ≤ 5 →
    ∃ t, core.run 2 s = .next t ∧ t.reads = s.reads ++ [(n, x)] ∧ t.turns = ts) ∧
  (∀ (s t : State) (n : BitVec 5), 2 ≤ n.toNat → n.toNat ≤ 5 → step s = .next t → t.hostRead n ≠ s.hostRead n →
    s.resetNext = true ∨ ∃ ts x, s.turns = .host (.write n x) :: ts ∧ t.hostRead n = x) ∧
  (∀ n, State.reset.hostRead n = 0#32)

/-- R114: a read of `DOUT0` to `DOUT15`, and of the registers that read 0. -/
def Obligations.HostReadOfDOUTAndZeroRegisters : Prop :=
  ∀ (s : State) (ts : List Turn) (n : BitVec 5), s.turns = .host (.read n) :: ts → s.held = none →
    s.RST = false → n.toNat = 0 ∨ 6 ≤ n.toNat → ∃ t x, step s = .next t ∧
      (8 ≤ n.toNat → n.toNat ≤ 23 → x = s.dout (n.toNat - 8)) ∧
      (n.toNat < 8 ∨ 23 < n.toNat → x = 0#32) ∧
      t.reads = s.reads ++ [(n, x)] ∧ s.SameEngine t ∧ t.turns = ts ∧ t.held = none ∧ t.msgReads = s.msgReads

/-! ## Commands (40_host_commands.md section 2, 60_exceptions.md) -/

/-- R119: a reserved command word written to `CMD` is discarded, whatever `BUSY` is; nothing is held. R110, its last case: a
write of register 1 or 6 to 31 is ignored. The step changes nothing but that the host's turn is over (log 6). -/
def Obligations.WritesWithoutEffectAreDiscarded : Prop :=
  ∀ (s : State) (ts : List Turn) (n : BitVec 5) (x : Word32), s.turns = .host (.write n x) :: ts → s.held = none →
    (n.toNat = 0 ∧ (x.toNat < 0x10 ∨ 0x14 < x.toNat)) ∨ n.toNat = 1 ∨ 6 ≤ n.toNat → step s = .next (s.setTurns ts)

/-- R245: the order in which a write to `CMD` is judged. The fifth case is "not specified" there: that the step is refused is
what R118 tells a model to do (log 17). That a held word is kept in the field `held` is the model's form of R116 (log 7), and
that the host's turn is used up that of a step (log 6). -/
def Obligations.CommandWriteJudgedInOrder : Prop :=
  ∀ (s : State) (ts : List Turn) (w : Word32), s.turns = .host (.write 0#5 w) :: ts → s.held = none →
    s.RST = false → ((∀ v : Variant, w ≠ commandWord v) → step s = .next (s.setTurns ts)) ∧
    (∀ v : Variant, w = commandWord v →
      (s.BUSY = true → step s = .next ((s.setTurns ts).setHeld (some w))) ∧
      (s.BUSY = false → v.LMAX < s.bitLength.toNat →
        ∃ t, step s = .next t ∧ t.VAR = v.code ∧ t.L = s.bitLength ∧ t.DONE = false ∧ t.ERR = true ∧ t.BUSY = false ∧
          s.KeepsPosition t) ∧
      (s.BUSY = false → s.bitLength.toNat ≤ v.LMAX → s.bitLength.toNat % 8 ≠ 0 →
        step s = .refused .unalignedLength) ∧
      (s.BUSY = false → s.bitLength.toNat ≤ v.LMAX → s.bitLength.toNat % 8 = 0 →
        ∃ t, step s = .next t ∧ t.VAR = v.code ∧ t.L = s.bitLength ∧ t.DONE = false ∧ t.ERR = false ∧ t.BUSY = true ∧
          t.PHASE = phasePAD ∧ t.BIDX = 0#119 ∧ t.T = 0#7))

/-- R117: a valid command, of each of the five variants, starts an invocation: exec of `DIGEST.SHA1`, `DIGEST.SHA224`,
`DIGEST.SHA256`, `DIGEST.SHA384`, `DIGEST.SHA512` answers the next state of the rule. R36: the five words of
`IV_0`; what the words of the other initial hash values are, `InitialHashValuesAreSquareRoots` says. -/
def Obligations.DigestStartsInvocation : Prop :=
  ∀ (v : Variant) (s : State), s.BUSY = false → s.bitLength.toNat ≤ v.LMAX → s.bitLength.toNat % 8 = 0 →
    ∃ t, exec (digestInstr v) s = .next t ∧
      (∀ i, i < v.NV → elemAt t.H i = (ivElems v).getD i .invalid ∧ (elemAt t.H i).holds v = true) ∧
      (v = .sha1 → elemAt t.H 0 = .w32 0x67452301#32 ∧ elemAt t.H 1 = .w32 0xEFCDAB89#32 ∧
        elemAt t.H 2 = .w32 0x98BADCFE#32 ∧ elemAt t.H 3 = .w32 0x10325476#32 ∧ elemAt t.H 4 = .w32 0xC3D2E1F0#32) ∧
      (∀ i, v.NV ≤ i → elemAt t.H i = elemAt s.H i) ∧
      t.NBLK.toNat = (s.bitLength.toNat / 8 + v.LB) / v.B + 1 ∧
      t.BUSY = true ∧ t.DONE = false ∧ t.ERR = false ∧
      t.PHASE = phasePAD ∧ t.BIDX = 0#119 ∧ t.T = 0#7 ∧ t.VAR = v.code ∧ t.L = s.bitLength ∧
      t.V = s.V ∧ t.W = s.W ∧ t.M = s.M ∧ s.KeepsLEN t ∧ s.KeepsMSG t ∧ s.KeepsEnvironment t ∧ t.msgReads = s.msgReads

/-- R241: the effect of `raise LengthOverflow`, for every command that raises it. -/
def Obligations.DigestRaisesLengthOverflow : Prop :=
  ∀ (v : Variant) (s : State), s.BUSY = false → v.LMAX < s.bitLength.toNat →
    ∃ t, exec (digestInstr v) s = .next t ∧
      t.ERR = true ∧ t.BUSY = false ∧ t.DONE = false ∧ t.VAR = v.code ∧ t.L = s.bitLength ∧
      t.status.toNat = 8 * v.code.toNat + 4 ∧ (∀ j, t.dout j = 0#32) ∧
      t.NBLK = s.NBLK ∧ s.KeepsPosition t ∧ s.KeepsDatapath t ∧ s.KeepsLEN t ∧ s.KeepsMSG t ∧ s.KeepsEnvironment t ∧
      t.msgReads = s.msgReads

/-- R240: when an accepted command raises `LengthOverflow`: exactly at a length of `2^lfb` or more; in the 32-bit family
exactly when `LEN3 ‖ LEN2 != 0`; in the 64-bit family never. -/
def Obligations.LengthOverflowExactly : Prop :=
  ∀ (v : Variant) (s t : State), s.BUSY = false → exec (digestInstr v) s = .next t →
    (t.ERR = true ↔ 2 ^ v.lfb ≤ s.bitLength.toNat) ∧
    (v.isFam32 = true → (t.ERR = true ↔ ¬(s.LEN3 = 0#32 ∧ s.LEN2 = 0#32))) ∧
    (v.isFam64 = true → t.ERR = false)

/-- R116: a legal command word written while `BUSY = 1` is held; while it is held the engine steps and the host waits; the
hold is lifted after the steps the invocation has left, and the command is then accepted with the `LEN` values of that
moment. -/
def Obligations.CommandHeldWhileBusy : Prop :=
  (∀ (s : State) (ts : List Turn) (v : Variant), s.turns = .host (.write 0#5 (commandWord v)) :: ts → s.held = none →
    s.RST = false → s.BUSY = true → step s = .next ((s.setTurns ts).setHeld (some (commandWord v)))) ∧
  (∀ (s : State) (w : Word32), s.held = some w → s.BUSY = true → s.RST = false → s.rstNext = false →
    step s = engineTurn s.engineTurnTaken) ∧
  (∀ (s : State) (v : Variant), s.held = some (commandWord v) → s.BUSY = false → s.RST = false →
    s.rstNext = false →
    step s = exec (digestInstr v) (s.setHeld none)) ∧
  (∀ (s : State) (v u : Variant), s.Inv → s.variant? = some u → s.held = some (commandWord v) → s.BUSY = true → s.turns = [] →
    ∃ t, core.run (stepsLeft u s) s = .next t ∧ t.BUSY = false ∧ t.held = some (commandWord v) ∧
      step t = exec (digestInstr v) (t.setHeld none) ∧ t.bitLength = s.bitLength)

/-- R37 to R40: the initial hash values are the digits of square roots the rules say they are. -/
def Obligations.InitialHashValuesAreSquareRoots : Prop :=
  IV_1.length = 8 ∧ IV_2.length = 8 ∧ IV_3.length = 8 ∧ IV_4.length = 8 ∧
  (∀ i, i < 8 → ∃ c, (c * 2 ^ 32 + (IV_2.getD i 0#32).toNat) ^ 2 ≤ Nat.nth Nat.Prime i * 2 ^ 64 ∧
    Nat.nth Nat.Prime i * 2 ^ 64 < (c * 2 ^ 32 + (IV_2.getD i 0#32).toNat + 1) ^ 2) ∧
  (∀ i, i < 8 → ∃ c, (c * 2 ^ 64 + (IV_3.getD i 0#64).toNat) ^ 2 ≤ Nat.nth Nat.Prime (8 + i) * 2 ^ 128 ∧
    Nat.nth Nat.Prime (8 + i) * 2 ^ 128 < (c * 2 ^ 64 + (IV_3.getD i 0#64).toNat + 1) ^ 2) ∧
  (∀ i, i < 8 → ∃ c, (c * 2 ^ 64 + (IV_4.getD i 0#64).toNat) ^ 2 ≤ Nat.nth Nat.Prime i * 2 ^ 128 ∧
    Nat.nth Nat.Prime i * 2 ^ 128 < (c * 2 ^ 64 + (IV_4.getD i 0#64).toNat + 1) ^ 2) ∧
  (∀ i, i < 8 → IV_1.getD i 0#32 = (IV_3.getD i 0#64).setWidth 32)

/-- R42, R43: the SHA-2 round constants are the digits of cube roots the rules say they are. -/
def Obligations.RoundConstantsAreCubeRoots : Prop :=
  K256.length = 64 ∧ K512.length = 80 ∧
  (∀ t, t < 64 → ∃ c, (c * 2 ^ 32 + (k256 t).toNat) ^ 3 ≤ Nat.nth Nat.Prime t * 2 ^ 96 ∧
    Nat.nth Nat.Prime t * 2 ^ 96 < (c * 2 ^ 32 + (k256 t).toNat + 1) ^ 3) ∧
  (∀ t, t < 80 → ∃ c, (c * 2 ^ 64 + (k512 t).toNat) ^ 3 ≤ Nat.nth Nat.Prime t * 2 ^ 192 ∧
    Nat.nth Nat.Prime t * 2 ^ 192 < (c * 2 ^ 64 + (k512 t).toNat + 1) ^ 3) ∧
  (∀ t, t < 64 → k256 t = (k512 t).extractLsb' 32 32)

/-! ## Padding (41_padding.md) -/

/-- R131: `k` is the smallest non-negative solution of the padding congruence; for a whole number of bytes it is seven zero
bits of the marker byte and `z` whole zero bytes. -/
def Obligations.ZeroPaddingLength : Prop :=
  ∀ (v : Variant) (len : Nat),
    refZeroBits v len < v.Bb ∧ (len + 1 + refZeroBits v len) % v.Bb = v.Bb - v.lfb ∧
    (∀ k, (len + 1 + k) % v.Bb = v.Bb - v.lfb → refZeroBits v len ≤ k) ∧
    (len % 8 = 0 → refZeroBits v len % 8 = 7 ∧ 7 ≤ refZeroBits v len ∧ (refZeroBits v len - 7) / 8 ≤ v.B - 1 ∧
      len + 1 + refZeroBits v len + v.lfb = 8 * (len / 8 + 1 + (refZeroBits v len - 7) / 8 + v.LB))

/-- R132: the number of blocks, in its three forms; it is at least 1, at most the rule's largest values, which the rule's
lengths reach, and fits the 119-bit register; the empty message has one block. -/
def Obligations.BlockCountForms : Prop :=
  (∀ v : Variant, (v.isFam32 = true → blockCount v (BitVec.ofNat 128 (2 ^ 64 - 8)) = 2 ^ 55 + 1) ∧
    (v.isFam64 = true → blockCount v (BitVec.ofNat 128 (2 ^ 128 - 8)) = 2 ^ 118 + 1) ∧ blockCount v 0#128 = 1) ∧
  ∀ (v : Variant) (len : BitVec 128), len.toNat ≤ v.LMAX → len.toNat % 8 = 0 →
    blockCount v len * v.Bb = len.toNat + 1 + refZeroBits v len.toNat + v.lfb ∧
    blockCount v len = (len.toNat + v.lfb) / v.Bb + 1 ∧
    blockCount v len = (len.toNat / 8 + v.LB) / v.B + 1 ∧
    1 ≤ blockCount v len ∧
    (v.isFam32 = true → blockCount v len ≤ 2 ^ 55 + 1) ∧ (v.isFam64 = true → blockCount v len ≤ 2 ^ 118 + 1) ∧
    (BitVec.ofNat 119 (blockCount v len)).toNat = blockCount v len

/-- R133: the Padded Buffer, in its four ranges, which cover it and do not overlap. -/
def Obligations.PaddedBufferRanges : Prop :=
  ∀ (v : Variant) (s : State) (i : Nat), s.L.toNat ≤ v.LMAX → s.L.toNat % 8 = 0 → s.NBLK.toNat = blockCount v s.L →
    i < s.NBLK.toNat * v.B →
    s.L.toNat / 8 + 1 ≤ s.NBLK.toNat * v.B - v.LB ∧
    (i < s.L.toNat / 8 → padByte v s i = Memory.read s.MSG i) ∧
    (i = s.L.toNat / 8 → padByte v s i = 0x80#8) ∧
    (s.L.toNat / 8 < i → i < s.NBLK.toNat * v.B - v.LB → padByte v s i = 0x00#8) ∧
    (s.NBLK.toNat * v.B - v.LB ≤ i →
      (padByte v s i).toNat = s.L.toNat / 2 ^ (8 * (s.NBLK.toNat * v.B - 1 - i)) % 256)

/-- R136: where the marker and the length field land, in the two cases of the rule's table. -/
def Obligations.MarkerAndLengthPlacement : Prop :=
  ∀ (v : Variant) (s : State) (q r : Nat), s.L.toNat ≤ v.LMAX → s.L.toNat % 8 = 0 → s.NBLK.toNat = blockCount v s.L →
    q = s.L.toNat / 8 / v.B → r = s.L.toNat / 8 % v.B →
    (∀ j m, j < q → m < v.B → padByte v s (j * v.B + m) = Memory.read s.MSG (j * v.B + m)) ∧
    (r + v.LB + 1 ≤ v.B → s.NBLK.toNat = q + 1 ∧ ∀ m, m < v.B →
      (m < r → padByte v s (q * v.B + m) = Memory.read s.MSG (q * v.B + m)) ∧
      (m = r → padByte v s (q * v.B + m) = 0x80#8) ∧
      (r < m → m < v.B - v.LB → padByte v s (q * v.B + m) = 0x00#8) ∧
      (v.B - v.LB ≤ m → padByte v s (q * v.B + m) = beByte v.LB s.L (m - (v.B - v.LB)))) ∧
    (v.B ≤ r + v.LB → s.NBLK.toNat = q + 2 ∧ ∀ m, m < v.B →
      (m < r → padByte v s (q * v.B + m) = Memory.read s.MSG (q * v.B + m)) ∧
      (m = r → padByte v s (q * v.B + m) = 0x80#8) ∧
      (r < m → padByte v s (q * v.B + m) = 0x00#8) ∧
      (m < v.B - v.LB → padByte v s ((q + 1) * v.B + m) = 0x00#8) ∧
      (v.B - v.LB ≤ m → padByte v s ((q + 1) * v.B + m) = beByte v.LB s.L (m - (v.B - v.LB))))

/-- R134: `PADBLK` completes in every state: it produces block `BIDX` into `M`, invalidates all of `W`, and reads the message
bytes of the block below `n` (and below the buffer's end), in ascending order. -/
def Obligations.PadblkProducesBlock : Prop :=
  ∀ (v : Variant) (s : State), ∃ t, exec (.padblk v) s = .next t ∧
    (∀ i, i < v.B → byteAt t.M i = some (padByte v s (s.BIDX.toNat * v.B + i))) ∧
    (∀ i, v.B ≤ i → byteAt t.M i = byteAt s.M i) ∧
    (∀ k, elemAt t.W k = .invalid) ∧
    t.PHASE = phaseSCHED ∧ t.BIDX = s.BIDX ∧ t.T = 0#7 ∧
    t.msgReads = s.msgReads ++ List.range' (s.BIDX.toNat * v.B)
      (min (min (s.L.toNat / 8) (s.NBLK.toNat * v.B)) ((s.BIDX.toNat + 1) * v.B) - s.BIDX.toNat * v.B) ∧
    t.H = s.H ∧ t.V = s.V ∧ s.KeepsParameters t ∧ s.KeepsFlags t ∧ s.KeepsLEN t ∧ s.KeepsMSG t ∧ s.KeepsEnvironment t

/-! ## Schedule (42_schedule.md) -/

/-- R150: `WLD32` packs four bytes of `M` into `W[T]`, the first most significant, and completes in every state. -/
def Obligations.Wld32LoadsRawWord : Prop :=
  ∀ (v : Variant) (t : BitVec 7) (s : State), (Instr.wld32 v t).wf = true → ∃ s', exec (.wld32 v t) s = .next s' ∧
    (∃ x : Word32, elemAt s'.W t.toNat = .w32 x ∧
      x.toNat = (s.m8 (4 * t.toNat)).toNat * 2 ^ 24 + (s.m8 (4 * t.toNat + 1)).toNat * 2 ^ 16 +
        (s.m8 (4 * t.toNat + 2)).toNat * 2 ^ 8 + (s.m8 (4 * t.toNat + 3)).toNat) ∧
    (∀ k, k ≠ t.toNat → elemAt s'.W k = elemAt s.W k) ∧
    s'.PHASE = phaseSCHED ∧ s'.BIDX = s.BIDX ∧ s'.T.toNat = t.toNat + 1 ∧
    s'.H = s.H ∧ s'.V = s.V ∧ s'.M = s.M ∧ s.KeepsRest s'

/-- R151: `WLD64` packs eight bytes of `M` into `W[T]`, the first most significant, and completes in every state. -/
def Obligations.Wld64LoadsRawWord : Prop :=
  ∀ (v : Variant) (t : BitVec 7) (s : State), (Instr.wld64 v t).wf = true → ∃ s', exec (.wld64 v t) s = .next s' ∧
    (∃ x : Word64, elemAt s'.W t.toNat = .w64 x ∧
      x.toNat = (s.m8 (8 * t.toNat)).toNat * 2 ^ 56 + (s.m8 (8 * t.toNat + 1)).toNat * 2 ^ 48 +
        (s.m8 (8 * t.toNat + 2)).toNat * 2 ^ 40 + (s.m8 (8 * t.toNat + 3)).toNat * 2 ^ 32 +
        (s.m8 (8 * t.toNat + 4)).toNat * 2 ^ 24 + (s.m8 (8 * t.toNat + 5)).toNat * 2 ^ 16 +
        (s.m8 (8 * t.toNat + 6)).toNat * 2 ^ 8 + (s.m8 (8 * t.toNat + 7)).toNat) ∧
    (∀ k, k ≠ t.toNat → elemAt s'.W k = elemAt s.W k) ∧
    s'.PHASE = phaseSCHED ∧ s'.BIDX = s.BIDX ∧ s'.T.toNat = t.toNat + 1 ∧
    s'.H = s.H ∧ s'.V = s.V ∧ s'.M = s.M ∧ s.KeepsRest s'

/-- R152: `WEXP.SHA1` computes the SHA-1 recurrence into `W[T]` and completes in every state. -/
def Obligations.WexpSha1ExpandsSchedule : Prop :=
  ∀ (t : BitVec 7) (s : State), (Instr.wexpSha1 t).wf = true → ∃ s', exec (.wexpSha1 t) s = .next s' ∧
    elemAt s'.W t.toNat =
      .w32 ((s.w32 (t.toNat - 3) ^^^ s.w32 (t.toNat - 8) ^^^ s.w32 (t.toNat - 14) ^^^ s.w32 (t.toNat - 16)).rotateLeft 1) ∧
    (∀ k, k ≠ t.toNat → elemAt s'.W k = elemAt s.W k) ∧
    (t.toNat < 79 → s'.PHASE = phaseSCHED ∧ s'.T.toNat = t.toNat + 1) ∧
    (t.toNat = 79 → s'.PHASE = phaseLDV ∧ s'.T = 0#7) ∧ s'.BIDX = s.BIDX ∧
    s'.H = s.H ∧ s'.V = s.V ∧ s'.M = s.M ∧ s.KeepsRest s'

/-- R153: `WEXP.S256` computes the SHA-2 recurrence modulo `2^32` into `W[T]` and completes in every state. -/
def Obligations.WexpS256ExpandsSchedule : Prop :=
  ∀ (v : Variant) (t : BitVec 7) (s : State), (Instr.wexpS256 v t).wf = true → ∃ s', exec (.wexpS256 v t) s = .next s' ∧
    (∃ x : Word32, elemAt s'.W t.toNat = .w32 x ∧
      x.toNat = ((sigma1_256 (s.w32 (t.toNat - 2))).toNat + (s.w32 (t.toNat - 7)).toNat +
        (sigma0_256 (s.w32 (t.toNat - 15))).toNat + (s.w32 (t.toNat - 16)).toNat) % 2 ^ 32) ∧
    (∀ k, k ≠ t.toNat → elemAt s'.W k = elemAt s.W k) ∧
    (t.toNat < 63 → s'.PHASE = phaseSCHED ∧ s'.T.toNat = t.toNat + 1) ∧
    (t.toNat = 63 → s'.PHASE = phaseLDV ∧ s'.T = 0#7) ∧ s'.BIDX = s.BIDX ∧
    s'.H = s.H ∧ s'.V = s.V ∧ s'.M = s.M ∧ s.KeepsRest s'

/-- R154: `WEXP.S512` computes the SHA-2 recurrence modulo `2^64` into `W[T]` and completes in every state. -/
def Obligations.WexpS512ExpandsSchedule : Prop :=
  ∀ (v : Variant) (t : BitVec 7) (s : State), (Instr.wexpS512 v t).wf = true → ∃ s', exec (.wexpS512 v t) s = .next s' ∧
    (∃ x : Word64, elemAt s'.W t.toNat = .w64 x ∧
      x.toNat = ((sigma1_512 (s.w64 (t.toNat - 2))).toNat + (s.w64 (t.toNat - 7)).toNat +
        (sigma0_512 (s.w64 (t.toNat - 15))).toNat + (s.w64 (t.toNat - 16)).toNat) % 2 ^ 64) ∧
    (∀ k, k ≠ t.toNat → elemAt s'.W k = elemAt s.W k) ∧
    (t.toNat < 79 → s'.PHASE = phaseSCHED ∧ s'.T.toNat = t.toNat + 1) ∧
    (t.toNat = 79 → s'.PHASE = phaseLDV ∧ s'.T = 0#7) ∧ s'.BIDX = s.BIDX ∧
    s'.H = s.H ∧ s'.V = s.V ∧ s'.M = s.M ∧ s.KeepsRest s'

/-- R155, R156: the small sigma functions, bit by bit. -/
def Obligations.SmallSigmaBits : Prop :=
  (∀ (x : Word32) (i : Nat), i < 32 →
    (sigma0_256 x).getLsbD i =
      (x.getLsbD ((i + 7) % 32) ^^ x.getLsbD ((i + 18) % 32) ^^ (decide (i + 3 < 32) && x.getLsbD (i + 3))) ∧
    (sigma1_256 x).getLsbD i =
      (x.getLsbD ((i + 17) % 32) ^^ x.getLsbD ((i + 19) % 32) ^^ (decide (i + 10 < 32) && x.getLsbD (i + 10)))) ∧
  (∀ (x : Word64) (i : Nat), i < 64 →
    (sigma0_512 x).getLsbD i =
      (x.getLsbD ((i + 1) % 64) ^^ x.getLsbD ((i + 8) % 64) ^^ (decide (i + 7 < 64) && x.getLsbD (i + 7))) ∧
    (sigma1_512 x).getLsbD i =
      (x.getLsbD ((i + 19) % 64) ^^ x.getLsbD ((i + 61) % 64) ^^ (decide (i + 6 < 64) && x.getLsbD (i + 6))))

/-! ## Rounds (43_rounds.md) -/

/-- R177: choice, majority and parity, bit by bit: "if x then y else z", and "the value at least two of the three have". -/
def Obligations.LogicalFunctionBits : Prop :=
  ∀ (w : Nat) (x y z : BitVec w) (i : Nat), i < w →
    (ch x y z).getLsbD i = (if x.getLsbD i then y.getLsbD i else z.getLsbD i) ∧
    (maj x y z).getLsbD i =
      decide (2 ≤ (x.getLsbD i).toNat + (y.getLsbD i).toNat + (z.getLsbD i).toNat) ∧
    (parity x y z).getLsbD i = decide (((x.getLsbD i).toNat + (y.getLsbD i).toNat + (z.getLsbD i).toNat) % 2 = 1)

/-- R178, R179: the capital sigma functions, bit by bit. -/
def Obligations.CapitalSigmaBits : Prop :=
  (∀ (x : Word32) (i : Nat), i < 32 →
    (bigSigma0_256 x).getLsbD i = (x.getLsbD ((i + 2) % 32) ^^ x.getLsbD ((i + 13) % 32) ^^ x.getLsbD ((i + 22) % 32)) ∧
    (bigSigma1_256 x).getLsbD i = (x.getLsbD ((i + 6) % 32) ^^ x.getLsbD ((i + 11) % 32) ^^ x.getLsbD ((i + 25) % 32))) ∧
  (∀ (x : Word64) (i : Nat), i < 64 →
    (bigSigma0_512 x).getLsbD i = (x.getLsbD ((i + 28) % 64) ^^ x.getLsbD ((i + 34) % 64) ^^ x.getLsbD ((i + 39) % 64)) ∧
    (bigSigma1_512 x).getLsbD i = (x.getLsbD ((i + 14) % 64) ^^ x.getLsbD ((i + 18) % 64) ^^ x.getLsbD ((i + 41) % 64)))

/-- R170: `LDV` copies `H[0..NV-1]` into `V`, in the variant's width, and completes in every state. -/
def Obligations.LdvLoadsWorkingState : Prop :=
  ∀ (v : Variant) (s : State), ∃ t, exec (.ldv v) s = .next t ∧
    (∀ i, i < v.NV → elemAt t.V i = (if v.isFam64 then .w64 (s.h64 i) else .w32 (s.h32 i)) ∧
      ((elemAt s.H i).holds v = true → elemAt t.V i = elemAt s.H i)) ∧
    (∀ i, v.NV ≤ i → elemAt t.V i = elemAt s.V i) ∧
    t.PHASE = phaseROUND ∧ t.BIDX = s.BIDX ∧ t.T = 0#7 ∧ t.H = s.H ∧ t.W = s.W ∧ t.M = s.M ∧ s.KeepsRest t

/-- R180, R171 to R174: the SHA-1 rounds `RND.SHA1.CH`, `RND.SHA1.PAR1`, `RND.SHA1.MAJ`, `RND.SHA1.PAR2`, each with its
function and constant, complete in every state. -/
def Obligations.Sha1RoundsUpdateWorkingState : Prop :=
  ∀ (i : Instr) (fn : Word32 → Word32 → Word32 → Word32) (k : Nat) (t : BitVec 7) (s : State),
    ((i = .rndSha1Ch t ∧ fn = ch ∧ k = 0x5A827999) ∨ (i = .rndSha1Par1 t ∧ fn = parity ∧ k = 0x6ED9EBA1) ∨
     (i = .rndSha1Maj t ∧ fn = maj ∧ k = 0x8F1BBCDC) ∨ (i = .rndSha1Par2 t ∧ fn = parity ∧ k = 0xCA62C1D6)) →
    i.wf = true → ∃ s', exec i s = .next s' ∧
      (∃ x : Word32, elemAt s'.V 0 = .w32 x ∧
        x.toNat = (((s.v32 0).rotateLeft 5).toNat + (fn (s.v32 1) (s.v32 2) (s.v32 3)).toNat + (s.v32 4).toNat + k +
          (s.w32 t.toNat).toNat) % 2 ^ 32) ∧
      elemAt s'.V 1 = .w32 (s.v32 0) ∧ elemAt s'.V 2 = .w32 ((s.v32 1).rotateLeft 30) ∧
      elemAt s'.V 3 = .w32 (s.v32 2) ∧ elemAt s'.V 4 = .w32 (s.v32 3) ∧
      (∀ j, 5 ≤ j → elemAt s'.V j = elemAt s.V j) ∧
      (t.toNat < 79 → s'.PHASE = phaseROUND ∧ s'.T.toNat = t.toNat + 1) ∧
      (t.toNat = 79 → s'.PHASE = phaseACC ∧ s'.T = 0#7) ∧ s'.BIDX = s.BIDX ∧
      s'.H = s.H ∧ s'.W = s.W ∧ s'.M = s.M ∧ s.KeepsRest s'

/-- R181, R175: `RND.S256`, every sum modulo `2^32`, completes in every state. -/
def Obligations.RndS256UpdatesWorkingState : Prop :=
  ∀ (v : Variant) (t : BitVec 7) (s : State), (Instr.rndS256 v t).wf = true → ∃ s', exec (.rndS256 v t) s = .next s' ∧
    (∃ (t1 t2 : Nat) (x y : Word32),
      t1 = (s.v32 7).toNat + (bigSigma1_256 (s.v32 4)).toNat + (ch (s.v32 4) (s.v32 5) (s.v32 6)).toNat +
        (k256 t.toNat).toNat + (s.w32 t.toNat).toNat ∧
      t2 = (bigSigma0_256 (s.v32 0)).toNat + (maj (s.v32 0) (s.v32 1) (s.v32 2)).toNat ∧
      elemAt s'.V 0 = .w32 x ∧ x.toNat = (t1 + t2) % 2 ^ 32 ∧
      elemAt s'.V 4 = .w32 y ∧ y.toNat = ((s.v32 3).toNat + t1) % 2 ^ 32) ∧
    elemAt s'.V 1 = .w32 (s.v32 0) ∧ elemAt s'.V 2 = .w32 (s.v32 1) ∧ elemAt s'.V 3 = .w32 (s.v32 2) ∧
    elemAt s'.V 5 = .w32 (s.v32 4) ∧ elemAt s'.V 6 = .w32 (s.v32 5) ∧ elemAt s'.V 7 = .w32 (s.v32 6) ∧
    (t.toNat < 63 → s'.PHASE = phaseROUND ∧ s'.T.toNat = t.toNat + 1) ∧
    (t.toNat = 63 → s'.PHASE = phaseACC ∧ s'.T = 0#7) ∧ s'.BIDX = s.BIDX ∧
    s'.H = s.H ∧ s'.W = s.W ∧ s'.M = s.M ∧ s.KeepsRest s'

/-- R181, R176: `RND.S512`, every sum modulo `2^64`, completes in every state. -/
def Obligations.RndS512UpdatesWorkingState : Prop :=
  ∀ (v : Variant) (t : BitVec 7) (s : State), (Instr.rndS512 v t).wf = true → ∃ s', exec (.rndS512 v t) s = .next s' ∧
    (∃ (t1 t2 : Nat) (x y : Word64),
      t1 = (s.v64 7).toNat + (bigSigma1_512 (s.v64 4)).toNat + (ch (s.v64 4) (s.v64 5) (s.v64 6)).toNat +
        (k512 t.toNat).toNat + (s.w64 t.toNat).toNat ∧
      t2 = (bigSigma0_512 (s.v64 0)).toNat + (maj (s.v64 0) (s.v64 1) (s.v64 2)).toNat ∧
      elemAt s'.V 0 = .w64 x ∧ x.toNat = (t1 + t2) % 2 ^ 64 ∧
      elemAt s'.V 4 = .w64 y ∧ y.toNat = ((s.v64 3).toNat + t1) % 2 ^ 64) ∧
    elemAt s'.V 1 = .w64 (s.v64 0) ∧ elemAt s'.V 2 = .w64 (s.v64 1) ∧ elemAt s'.V 3 = .w64 (s.v64 2) ∧
    elemAt s'.V 5 = .w64 (s.v64 4) ∧ elemAt s'.V 6 = .w64 (s.v64 5) ∧ elemAt s'.V 7 = .w64 (s.v64 6) ∧
    (t.toNat < 79 → s'.PHASE = phaseROUND ∧ s'.T.toNat = t.toNat + 1) ∧
    (t.toNat = 79 → s'.PHASE = phaseACC ∧ s'.T = 0#7) ∧ s'.BIDX = s.BIDX ∧
    s'.H = s.H ∧ s'.W = s.W ∧ s'.M = s.M ∧ s.KeepsRest s'

/-! ## Accumulation and digest (44_digest.md) -/

/-- R200: `ACC` adds `V` into `H` word by word modulo `2^ww` and completes in every state; on the last block it clears `BUSY`
and sets `DONE` in the same step, otherwise it goes on to the next block. -/
def Obligations.AccAddsWorkingState : Prop :=
  ∀ (v : Variant) (s : State), ∃ t, exec (.acc v) s = .next t ∧
    (∀ i, i < v.NV →
      (v.isFam32 = true → ∃ x : Word32, elemAt t.H i = .w32 x ∧ x.toNat = ((s.h32 i).toNat + (s.v32 i).toNat) % 2 ^ 32) ∧
      (v.isFam64 = true → ∃ x : Word64, elemAt t.H i = .w64 x ∧ x.toNat = ((s.h64 i).toNat + (s.v64 i).toNat) % 2 ^ 64)) ∧
    (∀ i, v.NV ≤ i → elemAt t.H i = elemAt s.H i) ∧
    (s.BIDX.toNat + 1 = s.NBLK.toNat →
      t.BUSY = false ∧ t.DONE = true ∧ t.PHASE = phaseIDLE ∧ t.BIDX = 0#119 ∧ t.T = 0#7) ∧
    (s.BIDX.toNat + 1 ≠ s.NBLK.toNat →
      t.BUSY = s.BUSY ∧ t.DONE = s.DONE ∧ t.PHASE = phasePAD ∧ t.BIDX = s.BIDX + 1#119 ∧ t.T = 0#7) ∧
    t.ERR = s.ERR ∧ t.V = s.V ∧ t.W = s.W ∧ t.M = s.M ∧ s.KeepsParameters t ∧ s.KeepsLEN t ∧ s.KeepsMSG t ∧
    s.KeepsEnvironment t ∧ t.msgReads = s.msgReads

/-- R203: `DOUT` in the 32-bit family. -/
def Obligations.DoutOf32BitFamily : Prop :=
  ∀ (s : State) (v : Variant) (j : Nat), s.variant? = some v → v.isFam32 = true → j < 16 →
    (∀ x : Word32, s.DONE = true → j < v.NOUT → elemAt s.H j = .w32 x → s.dout j = x) ∧
    (v.NOUT ≤ j → s.dout j = 0#32) ∧ (s.DONE = false → s.dout j = 0#32)

/-- R204: `DOUT` in the 64-bit family, most significant half in the lower-numbered register. -/
def Obligations.DoutOf64BitFamily : Prop :=
  ∀ (s : State) (v : Variant) (i : Nat), s.variant? = some v → v.isFam64 = true → i < 8 →
    (∀ x : Word64, s.DONE = true → i < v.NOUT → elemAt s.H i = .w64 x →
      (s.dout (2 * i)).toNat = x.toNat / 2 ^ 32 ∧ (s.dout (2 * i + 1)).toNat = x.toNat % 2 ^ 32) ∧
    (v.NOUT ≤ i → s.dout (2 * i) = 0#32 ∧ s.dout (2 * i + 1) = 0#32) ∧
    (s.DONE = false → s.dout (2 * i) = 0#32 ∧ s.dout (2 * i + 1) = 0#32)

/-- R205: the digest bytes, read off the `DOUT` registers in ascending order, are the digest words each most significant byte
first, in both families. -/
def Obligations.DigestBytesFromDout : Prop :=
  ∀ (s : State) (v : Variant) (i m : Nat), s.variant? = some v → s.DONE = true → i < v.NOUT → m < v.wb →
    (v.isFam32 = true →
      beByte 4 (s.dout ((v.wb * i + m) / 4)) ((v.wb * i + m) % 4) = beByte v.wb (s.h32 i) m) ∧
    (v.isFam64 = true →
      beByte 4 (s.dout ((v.wb * i + m) / 4)) ((v.wb * i + m) % 4) = beByte v.wb (s.h64 i) m)

/-- R206, R30: the digest is immutable once produced: from every state that meets the invariant, as long as `DONE = 1`, a step changes neither `H` nor what a `DOUT` register
reads; and `DONE` is cleared only by a command being accepted or by the release of an asserted `rst`, which
is where the model gives the state its reset values (log 10). -/
def Obligations.DigestImmutableOnceProduced : Prop :=
  ∀ s t : State, s.Inv → s.DONE = true → step s = .next t →
    (t.DONE = true → t.PHASE = phaseIDLE ∧ t.H = s.H ∧ t.VAR = s.VAR ∧ ∀ j, t.dout j = s.dout j) ∧
    (t.DONE = false → s.resetNext = true ∨
      ∃ v : Variant, t.VAR = v.code ∧ t.L = s.bitLength ∧
        (s.held = some (commandWord v) ∨ ∃ ts, s.turns = .host (.write 0#5 (commandWord v)) :: ts))

/-- R247: `ERR` stays 1 until a command is accepted, or reset, whose values the model gives at the release of `rst` (log 10);
reading `STATUS` or a reserved command word does not clear it. -/
def Obligations.ErrorStaysUntilNextCommand : Prop :=
  ∀ s t : State, s.ERR = true → step s = .next t → t.ERR = false → s.resetNext = true ∨
    ∃ v : Variant, t.VAR = v.code ∧ t.L = s.bitLength ∧ t.BUSY = true ∧
      (s.held = some (commandWord v) ∨ ∃ ts, s.turns = .host (.write 0#5 (commandWord v)) :: ts)

/-! ## Sequencer (45_sequencer.md) and the whole machine -/

/-- R215: when the engine's turn comes and `PHASE != IDLE`, the step is exec of the micro-operation the step word decodes to.
The step adds that the turn is used up and the free values' counter goes on (log 2, 6). -/
def Obligations.EngineStepRunsDecodedMicroOp : Prop :=
  ∀ (s : State) (i : Instr), s.PHASE ≠ phaseIDLE → decodeStepWord s.stepWord = .ok i →
    s.RST = false → (s.turns = [] → s.held = none → step s = exec i s.nextTick) ∧
    (∀ ts, s.turns = .engine :: ts → s.held = none → step s = exec i (s.setTurns ts).nextTick)

/-- A `CMD` write of a word that decodes to a command runs exec of that command. The step adds that the host's turn is used
up (log 6). -/
def Obligations.HostStepRunsDecodedCommand : Prop :=
  ∀ (s : State) (ts : List Turn) (w : Word32) (i : Instr), decodeCommand w = .ok i → s.held = none → s.RST = false →
    s.turns = .host (.write 0#5 w) :: ts → step s = exec i (s.setTurns ts)

/-- The next-position table of R216, for a running engine in any state that meets the invariant. -/
def Obligations.NextPositionTable : Prop :=
  ∀ (s : State) (v : Variant), s.Inv → s.variant? = some v → s.engineAlone → s.BUSY = true → ∃ t, step s = .next t ∧
    (s.PHASE = phasePAD → t.PHASE = phaseSCHED ∧ t.BIDX = s.BIDX ∧ t.T = 0#7) ∧
    (s.PHASE = phaseSCHED → s.T.toNat < v.R - 1 → t.PHASE = phaseSCHED ∧ t.BIDX = s.BIDX ∧ t.T.toNat = s.T.toNat + 1) ∧
    (s.PHASE = phaseSCHED → s.T.toNat = v.R - 1 → t.PHASE = phaseLDV ∧ t.BIDX = s.BIDX ∧ t.T = 0#7) ∧
    (s.PHASE = phaseLDV → t.PHASE = phaseROUND ∧ t.BIDX = s.BIDX ∧ t.T = 0#7) ∧
    (s.PHASE = phaseROUND → s.T.toNat < v.R - 1 → t.PHASE = phaseROUND ∧ t.BIDX = s.BIDX ∧ t.T.toNat = s.T.toNat + 1) ∧
    (s.PHASE = phaseROUND → s.T.toNat = v.R - 1 → t.PHASE = phaseACC ∧ t.BIDX = s.BIDX ∧ t.T = 0#7) ∧
    (s.PHASE = phaseACC → s.BIDX.toNat + 1 < s.NBLK.toNat →
      t.PHASE = phasePAD ∧ t.BIDX.toNat = s.BIDX.toNat + 1 ∧ t.T = 0#7) ∧
    (s.PHASE = phaseACC → s.BIDX.toNat + 1 = s.NBLK.toNat → t.PHASE = phaseIDLE ∧ t.BIDX = 0#119 ∧ t.T = 0#7)

/-- The invariant holds at reset. -/
def Obligations.InvariantAtReset : Prop := State.reset.Inv

/-- Every step keeps the invariant, from every state that meets it. -/
def Obligations.StepKeepsInvariant : Prop :=
  ∀ s t : State, s.Inv → step s = .next t → t.Inv

/-- R44: no reachable step reads an element that holds `invalid`. -/
def Obligations.NoReachableStepReadsInvalid : Prop :=
  ∀ (s : State) (i : Instr), Reachable s → s.PHASE ≠ phaseIDLE → decodeStepWord s.stepWord = .ok i → sourcesValid i s

/-- R243: no reachable step fails, but for the one case the spec leaves unspecified (R118). -/
def Obligations.ReachableStepCompletes : Prop :=
  ∀ s : State, Reachable s →
    (∃ t, step s = .next t) ∨
    (step s = .refused .unalignedLength ∧ s.BUSY = false ∧ s.bitLength.toNat % 8 ≠ 0)

/-- R218: an accepted invocation takes exactly `NBLK * (2R + 3)` engine steps from acceptance to `DONE`, from any state the
engine accepts a command in. -/
def Obligations.InvocationTerminatesExactly : Prop :=
  ∀ (v : Variant) (s : State), s.BUSY = false → s.held = none → s.RST = false → s.turns = [.host (.write 0#5 (commandWord v))] →
    s.bitLength.toNat ≤ v.LMAX → s.bitLength.toNat % 8 = 0 →
    ∃ a t, step s = .next a ∧ core.run (a.NBLK.toNat * (2 * v.R + 3)) a = .next t ∧
      t.BUSY = false ∧ t.DONE = true ∧ t.ERR = false ∧ t.PHASE = phaseIDLE ∧ t.BIDX = 0#119 ∧ t.T = 0#7 ∧
      ∀ k, k < a.NBLK.toNat * (2 * v.R + 3) → ∃ u, core.run k a = .next u ∧ u.BUSY = true ∧ u.DONE = false

/-- R126: the end-to-end contract. After `NBLK * (2R + 3)` engine steps the Hash State is the fold of the compression function
over the blocks of the padded message, from `IV_v`, whatever the engine held before. -/
def Obligations.EndToEndContract : Prop :=
  ∀ (v : Variant) (s : State), s.BUSY = false → s.held = none → s.RST = false → s.turns = [.host (.write 0#5 (commandWord v))] →
    s.bitLength.toNat ≤ v.LMAX → s.bitLength.toNat % 8 = 0 →
    ∃ a t, step s = .next a ∧ core.run (refSteps v s.bitLength) a = .next t ∧
      t.PHASE = phaseIDLE ∧ t.BUSY = false ∧ t.DONE = true ∧ t.ERR = false ∧ t.VAR = v.code ∧ t.L = s.bitLength ∧
      ∀ i, i < v.NV →
        elemAt t.H i = (refHash v s.bitLength (Memory.read s.MSG) (blockCount v s.bitLength)).getD i .invalid

/-- R69: an invocation reads each message index `0 .. n-1` exactly once, in ascending order, and no other. -/
def Obligations.InvocationReadsMessageOnce : Prop :=
  ∀ (v : Variant) (s : State), s.BUSY = false → s.held = none → s.RST = false → s.turns = [.host (.write 0#5 (commandWord v))] →
    s.bitLength.toNat ≤ v.LMAX → s.bitLength.toNat % 8 = 0 →
    ∃ a t, step s = .next a ∧ core.run (refSteps v s.bitLength) a = .next t ∧
      t.msgReads = s.msgReads ++ List.range (s.bitLength.toNat / 8)

/-- R2, R282: the digest is a function of variant and message: two engines that hold anything else whatever give the same
`DOUT` after the same command on the same message. -/
def Obligations.DigestDependsOnMessageOnly : Prop :=
  ∀ (v : Variant) (s₁ s₂ : State), s₁.BUSY = false → s₂.BUSY = false → s₁.held = none → s₂.held = none →
    s₁.RST = false → s₂.RST = false →
    s₁.turns = [.host (.write 0#5 (commandWord v))] → s₂.turns = [.host (.write 0#5 (commandWord v))] →
    s₁.bitLength = s₂.bitLength → s₁.bitLength.toNat ≤ v.LMAX → s₁.bitLength.toNat % 8 = 0 →
    (∀ a, a < s₁.bitLength.toNat / 8 → Memory.read s₁.MSG a = Memory.read s₂.MSG a) →
    ∃ t₁ t₂, core.run (refSteps v s₁.bitLength + 1) s₁ = .next t₁ ∧ core.run (refSteps v s₁.bitLength + 1) s₂ = .next t₂ ∧
      ∀ j, t₁.dout j = t₂.dout j

/-- R75, R182: the control flow depends on the variant and the number of blocks and on no data: two engines at the same
position take the same position next, whatever `H`, `V`, `W`, `M`, the length and the message hold. -/
def Obligations.ControlFlowIgnoresData : Prop :=
  ∀ s₁ s₂ t₁ : State, s₁.engineAlone → s₂.engineAlone → s₂.PHASE = s₁.PHASE → s₂.BIDX = s₁.BIDX → s₂.T = s₁.T →
    s₂.VAR = s₁.VAR → s₂.NBLK = s₁.NBLK → s₂.BUSY = s₁.BUSY → s₂.DONE = s₁.DONE → s₂.ERR = s₁.ERR → step s₁ = .next t₁ →
    ∃ t₂, step s₂ = .next t₂ ∧ t₂.PHASE = t₁.PHASE ∧ t₂.BIDX = t₁.BIDX ∧ t₂.T = t₁.T ∧ t₂.VAR = t₁.VAR ∧
      t₂.NBLK = t₁.NBLK ∧ t₂.BUSY = t₁.BUSY ∧ t₂.DONE = t₁.DONE ∧ t₂.ERR = t₁.ERR ∧ t₂.engineAlone

/-- R46: what the host can observe. Two engines that agree on the flags, the variant, the length registers and, while
`DONE = 1`, the digest words, read the same through every host register, whatever else they hold; also while `rst` is
asserted, when what is read has a free part, drawn with the counter `tick` (log 10). -/
def Obligations.HostSeesOnlyFlagsLengthAndDigest : Prop :=
  ∀ s₁ s₂ : State, s₂.BUSY = s₁.BUSY → s₂.DONE = s₁.DONE → s₂.ERR = s₁.ERR → s₂.VAR = s₁.VAR →
    s₂.LEN0 = s₁.LEN0 → s₂.LEN1 = s₁.LEN1 → s₂.LEN2 = s₁.LEN2 → s₂.LEN3 = s₁.LEN3 →
    (s₁.DONE = true → ∃ v, s₁.variant? = some v ∧ ∀ i, i < v.NOUT →
      (elemAt s₁.H i).holds v = true ∧ elemAt s₂.H i = elemAt s₁.H i) →
    ∀ n, s₂.hostRead n = s₁.hostRead n ∧ (s₂.tick = s₁.tick → s₂.readInReset n = s₁.readInReset n)

/-! ## The message space (20_memory.md) -/

/-- R60, R62, R34: no instruction writes the message space or the length registers. -/
def Obligations.NoInstructionWritesMSGOrLEN : Prop :=
  ∀ (i : Instr) (s t : State), exec i s = .next t → s.KeepsMSG t ∧ s.KeepsLEN t

/-- R60, R45: a byte of `MSG` changes only by the host placing it. -/
def Obligations.OnlyTheHostChangesMSG : Prop :=
  ∀ (s t : State) (a : Nat), Memory.wf s.MSG = true → step s = .next t → Memory.read t.MSG a ≠ Memory.read s.MSG a →
    ∃ ts x b, s.turns = .host (.place x b) :: ts ∧ x.toNat = a ∧ Memory.read t.MSG a = b

/-- The host places a byte: it reads back, every other address reads as before, the canonical form and every other part of
the state are kept, also while `rst` is asserted (log 1, 6). -/
def Obligations.PlacedByteReadsBack : Prop :=
  ∀ (s : State) (ts : List Turn) (x : BitVec 125) (b : Byte), s.turns = .host (.place x b) :: ts →
    s.RST = true ∨ s.held = none → Memory.wf s.MSG = true → ∃ t, step s = .next t ∧ Memory.wf t.MSG = true ∧
      (∀ a, Memory.read t.MSG a = if a = x.toNat then b else Memory.read s.MSG a) ∧
      s.KeepsDatapath t ∧ s.KeepsPosition t ∧ s.KeepsParameters t ∧ s.KeepsFlags t ∧ s.KeepsLEN t ∧
      t.RST = s.RST ∧ t.turns = ts ∧ t.held = s.held ∧ t.reads = s.reads ∧ t.msgReads = s.msgReads

/-! ## While `rst` is asserted (70_reset_and_hazards.md) -/

/-- R270: `rst` can be asserted whatever else is waiting; while it is asserted the engine takes no step and accepts no host
write; when it is released every piece of state has the value of R48. The model's choices in it (log 6, 10): a turn of the engine
or a write that is not accepted is used up and lost, and the registers keep their values until the release. -/
def Obligations.AssertedResetStopsTheEngine : Prop :=
  ∀ (s : State) (ts : List Turn),
    (s.turns = .assertRst :: ts → ∃ t, step s = .next t ∧ t.RST = true ∧ t.turns = ts) ∧
    (s.RST = true →
      (s.turns = [] → step s = .next s) ∧
      (s.turns = .engine :: ts → step s = .next (s.setTurns ts)) ∧
      (∀ n x, s.turns = .host (.write n x) :: ts → step s = .next (s.setTurns ts)) ∧
      (s.turns = .releaseRst :: ts → ∃ t, step s = .next t ∧ t.HasResetValues ∧ t.RST = false ∧ t.turns = ts))
end

