-- ==== Sys2Proof/Laws/Decode.lean ====
section
/-! SUPPORT. The fields of a packed word, the variant codes, and what the decoder answers on each packed word. -/

namespace Sys2Proof

@[simp] theorem stepVar_pack (v p : BitVec 3) (t : BitVec 7) : stepVar (packStepWord v p t) = v := by
  apply BitVec.eq_of_getLsbD_eq
  intro i hi
  simp only [stepVar, packStepWord, BitVec.getLsbD_extractLsb', BitVec.getLsbD_append]
  rw [if_neg (by omega), if_neg (by omega)]
  simp only [hi, decide_true, Bool.true_and]
  congr 1
  omega

@[simp] theorem stepPhase_pack (v p : BitVec 3) (t : BitVec 7) : stepPhase (packStepWord v p t) = p := by
  apply BitVec.eq_of_getLsbD_eq
  intro i hi
  simp only [stepPhase, packStepWord, BitVec.getLsbD_extractLsb', BitVec.getLsbD_append]
  rw [if_neg (by omega), if_pos (by omega)]
  simp only [hi, decide_true, Bool.true_and]
  congr 1
  omega

@[simp] theorem stepIndex_pack (v p : BitVec 3) (t : BitVec 7) : stepIndex (packStepWord v p t) = t := by
  apply BitVec.eq_of_getLsbD_eq
  intro i hi
  simp only [stepIndex, packStepWord, BitVec.getLsbD_extractLsb', BitVec.getLsbD_append]
  rw [if_pos (by omega)]
  simp only [hi, decide_true, Bool.true_and]
  congr 1
  omega

/-- A step word is its three fields. -/
theorem pack_fields (w : BitVec 13) : packStepWord (stepVar w) (stepPhase w) (stepIndex w) = w := by
  apply BitVec.eq_of_getLsbD_eq
  intro i hi
  simp only [stepIndex, stepVar, stepPhase, packStepWord, BitVec.getLsbD_append, BitVec.getLsbD_extractLsb']
  split_ifs with h1 h2
  · simp [h1]
  · simp only [h2, decide_true, Bool.true_and]
    congr 1
    omega
  · have h3 : i - 7 - 3 < 3 := by omega
    simp only [h3, decide_true, Bool.true_and]
    congr 1
    omega

@[simp] theorem ofCode_code (v : Variant) : Variant.ofCode v.code = some v := by
  cases v <;> rfl

theorem code_of_ofCode {c : BitVec 3} {v : Variant} (h : Variant.ofCode c = some v) : c = v.code := by
  revert h
  cases v <;> (revert c; decide)

theorem ofCode_isSome_iff (c : BitVec 3) : (Variant.ofCode c).isSome = true ↔ c.toNat ≤ 4 := by
  revert c
  decide

theorem ofCode_of_le {c : BitVec 3} (h : c.toNat ≤ 4) : ∃ v, Variant.ofCode c = some v :=
  Option.isSome_iff_exists.mp ((ofCode_isSome_iff c).mpr h)

theorem code_injective {v v' : Variant} (h : v.code = v'.code) : v = v' := by
  cases v <;> cases v' <;> first | rfl | (exact absurd h (by decide))

@[simp] theorem decodeCommand_commandWord (v : Variant) : decodeCommand (commandWord v) = .ok (digestInstr v) := by
  cases v <;> rfl

end Sys2Proof
end

