-- ==== Sys2Proof/Laws/State.lean ====
section
/-! SUPPORT. What each state operation does to each field: one lemma per field per operation, so that no proof unfolds a record
update. Then the operations that choose between two updates. -/

namespace Sys2Proof.Machine

open Sys2Proof

/-! ### `State.setH` -/

@[simp] theorem State.setH_H (s : State) (x : Vector Elem 8) : (s.setH x).H = x := rfl
@[simp] theorem State.setH_V (s : State) (x : Vector Elem 8) : (s.setH x).V = s.V := rfl
@[simp] theorem State.setH_W (s : State) (x : Vector Elem 8) : (s.setH x).W = s.W := rfl
@[simp] theorem State.setH_M (s : State) (x : Vector Elem 8) : (s.setH x).M = s.M := rfl
@[simp] theorem State.setH_PHASE (s : State) (x : Vector Elem 8) : (s.setH x).PHASE = s.PHASE := rfl
@[simp] theorem State.setH_BIDX (s : State) (x : Vector Elem 8) : (s.setH x).BIDX = s.BIDX := rfl
@[simp] theorem State.setH_T (s : State) (x : Vector Elem 8) : (s.setH x).T = s.T := rfl
@[simp] theorem State.setH_VAR (s : State) (x : Vector Elem 8) : (s.setH x).VAR = s.VAR := rfl
@[simp] theorem State.setH_L (s : State) (x : Vector Elem 8) : (s.setH x).L = s.L := rfl
@[simp] theorem State.setH_NBLK (s : State) (x : Vector Elem 8) : (s.setH x).NBLK = s.NBLK := rfl
@[simp] theorem State.setH_BUSY (s : State) (x : Vector Elem 8) : (s.setH x).BUSY = s.BUSY := rfl
@[simp] theorem State.setH_DONE (s : State) (x : Vector Elem 8) : (s.setH x).DONE = s.DONE := rfl
@[simp] theorem State.setH_ERR (s : State) (x : Vector Elem 8) : (s.setH x).ERR = s.ERR := rfl
@[simp] theorem State.setH_LEN0 (s : State) (x : Vector Elem 8) : (s.setH x).LEN0 = s.LEN0 := rfl
@[simp] theorem State.setH_LEN1 (s : State) (x : Vector Elem 8) : (s.setH x).LEN1 = s.LEN1 := rfl
@[simp] theorem State.setH_LEN2 (s : State) (x : Vector Elem 8) : (s.setH x).LEN2 = s.LEN2 := rfl
@[simp] theorem State.setH_LEN3 (s : State) (x : Vector Elem 8) : (s.setH x).LEN3 = s.LEN3 := rfl
@[simp] theorem State.setH_RST (s : State) (x : Vector Elem 8) : (s.setH x).RST = s.RST := rfl
@[simp] theorem State.setH_MSG (s : State) (x : Vector Elem 8) : (s.setH x).MSG = s.MSG := rfl
@[simp] theorem State.setH_turns (s : State) (x : Vector Elem 8) : (s.setH x).turns = s.turns := rfl
@[simp] theorem State.setH_held (s : State) (x : Vector Elem 8) : (s.setH x).held = s.held := rfl
@[simp] theorem State.setH_reads (s : State) (x : Vector Elem 8) : (s.setH x).reads = s.reads := rfl
@[simp] theorem State.setH_msgReads (s : State) (x : Vector Elem 8) : (s.setH x).msgReads = s.msgReads := rfl
@[simp] theorem State.setH_tick (s : State) (x : Vector Elem 8) : (s.setH x).tick = s.tick := rfl

/-! ### `State.setV` -/

@[simp] theorem State.setV_H (s : State) (x : Vector Elem 8) : (s.setV x).H = s.H := rfl
@[simp] theorem State.setV_V (s : State) (x : Vector Elem 8) : (s.setV x).V = x := rfl
@[simp] theorem State.setV_W (s : State) (x : Vector Elem 8) : (s.setV x).W = s.W := rfl
@[simp] theorem State.setV_M (s : State) (x : Vector Elem 8) : (s.setV x).M = s.M := rfl
@[simp] theorem State.setV_PHASE (s : State) (x : Vector Elem 8) : (s.setV x).PHASE = s.PHASE := rfl
@[simp] theorem State.setV_BIDX (s : State) (x : Vector Elem 8) : (s.setV x).BIDX = s.BIDX := rfl
@[simp] theorem State.setV_T (s : State) (x : Vector Elem 8) : (s.setV x).T = s.T := rfl
@[simp] theorem State.setV_VAR (s : State) (x : Vector Elem 8) : (s.setV x).VAR = s.VAR := rfl
@[simp] theorem State.setV_L (s : State) (x : Vector Elem 8) : (s.setV x).L = s.L := rfl
@[simp] theorem State.setV_NBLK (s : State) (x : Vector Elem 8) : (s.setV x).NBLK = s.NBLK := rfl
@[simp] theorem State.setV_BUSY (s : State) (x : Vector Elem 8) : (s.setV x).BUSY = s.BUSY := rfl
@[simp] theorem State.setV_DONE (s : State) (x : Vector Elem 8) : (s.setV x).DONE = s.DONE := rfl
@[simp] theorem State.setV_ERR (s : State) (x : Vector Elem 8) : (s.setV x).ERR = s.ERR := rfl
@[simp] theorem State.setV_LEN0 (s : State) (x : Vector Elem 8) : (s.setV x).LEN0 = s.LEN0 := rfl
@[simp] theorem State.setV_LEN1 (s : State) (x : Vector Elem 8) : (s.setV x).LEN1 = s.LEN1 := rfl
@[simp] theorem State.setV_LEN2 (s : State) (x : Vector Elem 8) : (s.setV x).LEN2 = s.LEN2 := rfl
@[simp] theorem State.setV_LEN3 (s : State) (x : Vector Elem 8) : (s.setV x).LEN3 = s.LEN3 := rfl
@[simp] theorem State.setV_RST (s : State) (x : Vector Elem 8) : (s.setV x).RST = s.RST := rfl
@[simp] theorem State.setV_MSG (s : State) (x : Vector Elem 8) : (s.setV x).MSG = s.MSG := rfl
@[simp] theorem State.setV_turns (s : State) (x : Vector Elem 8) : (s.setV x).turns = s.turns := rfl
@[simp] theorem State.setV_held (s : State) (x : Vector Elem 8) : (s.setV x).held = s.held := rfl
@[simp] theorem State.setV_reads (s : State) (x : Vector Elem 8) : (s.setV x).reads = s.reads := rfl
@[simp] theorem State.setV_msgReads (s : State) (x : Vector Elem 8) : (s.setV x).msgReads = s.msgReads := rfl
@[simp] theorem State.setV_tick (s : State) (x : Vector Elem 8) : (s.setV x).tick = s.tick := rfl

/-! ### `State.setW` -/

@[simp] theorem State.setW_H (s : State) (x : Vector Elem 80) : (s.setW x).H = s.H := rfl
@[simp] theorem State.setW_V (s : State) (x : Vector Elem 80) : (s.setW x).V = s.V := rfl
@[simp] theorem State.setW_W (s : State) (x : Vector Elem 80) : (s.setW x).W = x := rfl
@[simp] theorem State.setW_M (s : State) (x : Vector Elem 80) : (s.setW x).M = s.M := rfl
@[simp] theorem State.setW_PHASE (s : State) (x : Vector Elem 80) : (s.setW x).PHASE = s.PHASE := rfl
@[simp] theorem State.setW_BIDX (s : State) (x : Vector Elem 80) : (s.setW x).BIDX = s.BIDX := rfl
@[simp] theorem State.setW_T (s : State) (x : Vector Elem 80) : (s.setW x).T = s.T := rfl
@[simp] theorem State.setW_VAR (s : State) (x : Vector Elem 80) : (s.setW x).VAR = s.VAR := rfl
@[simp] theorem State.setW_L (s : State) (x : Vector Elem 80) : (s.setW x).L = s.L := rfl
@[simp] theorem State.setW_NBLK (s : State) (x : Vector Elem 80) : (s.setW x).NBLK = s.NBLK := rfl
@[simp] theorem State.setW_BUSY (s : State) (x : Vector Elem 80) : (s.setW x).BUSY = s.BUSY := rfl
@[simp] theorem State.setW_DONE (s : State) (x : Vector Elem 80) : (s.setW x).DONE = s.DONE := rfl
@[simp] theorem State.setW_ERR (s : State) (x : Vector Elem 80) : (s.setW x).ERR = s.ERR := rfl
@[simp] theorem State.setW_LEN0 (s : State) (x : Vector Elem 80) : (s.setW x).LEN0 = s.LEN0 := rfl
@[simp] theorem State.setW_LEN1 (s : State) (x : Vector Elem 80) : (s.setW x).LEN1 = s.LEN1 := rfl
@[simp] theorem State.setW_LEN2 (s : State) (x : Vector Elem 80) : (s.setW x).LEN2 = s.LEN2 := rfl
@[simp] theorem State.setW_LEN3 (s : State) (x : Vector Elem 80) : (s.setW x).LEN3 = s.LEN3 := rfl
@[simp] theorem State.setW_RST (s : State) (x : Vector Elem 80) : (s.setW x).RST = s.RST := rfl
@[simp] theorem State.setW_MSG (s : State) (x : Vector Elem 80) : (s.setW x).MSG = s.MSG := rfl
@[simp] theorem State.setW_turns (s : State) (x : Vector Elem 80) : (s.setW x).turns = s.turns := rfl
@[simp] theorem State.setW_held (s : State) (x : Vector Elem 80) : (s.setW x).held = s.held := rfl
@[simp] theorem State.setW_reads (s : State) (x : Vector Elem 80) : (s.setW x).reads = s.reads := rfl
@[simp] theorem State.setW_msgReads (s : State) (x : Vector Elem 80) : (s.setW x).msgReads = s.msgReads := rfl
@[simp] theorem State.setW_tick (s : State) (x : Vector Elem 80) : (s.setW x).tick = s.tick := rfl

/-! ### `State.setM` -/

@[simp] theorem State.setM_H (s : State) (x : Vector (Option Byte) 128) : (s.setM x).H = s.H := rfl
@[simp] theorem State.setM_V (s : State) (x : Vector (Option Byte) 128) : (s.setM x).V = s.V := rfl
@[simp] theorem State.setM_W (s : State) (x : Vector (Option Byte) 128) : (s.setM x).W = s.W := rfl
@[simp] theorem State.setM_M (s : State) (x : Vector (Option Byte) 128) : (s.setM x).M = x := rfl
@[simp] theorem State.setM_PHASE (s : State) (x : Vector (Option Byte) 128) : (s.setM x).PHASE = s.PHASE := rfl
@[simp] theorem State.setM_BIDX (s : State) (x : Vector (Option Byte) 128) : (s.setM x).BIDX = s.BIDX := rfl
@[simp] theorem State.setM_T (s : State) (x : Vector (Option Byte) 128) : (s.setM x).T = s.T := rfl
@[simp] theorem State.setM_VAR (s : State) (x : Vector (Option Byte) 128) : (s.setM x).VAR = s.VAR := rfl
@[simp] theorem State.setM_L (s : State) (x : Vector (Option Byte) 128) : (s.setM x).L = s.L := rfl
@[simp] theorem State.setM_NBLK (s : State) (x : Vector (Option Byte) 128) : (s.setM x).NBLK = s.NBLK := rfl
@[simp] theorem State.setM_BUSY (s : State) (x : Vector (Option Byte) 128) : (s.setM x).BUSY = s.BUSY := rfl
@[simp] theorem State.setM_DONE (s : State) (x : Vector (Option Byte) 128) : (s.setM x).DONE = s.DONE := rfl
@[simp] theorem State.setM_ERR (s : State) (x : Vector (Option Byte) 128) : (s.setM x).ERR = s.ERR := rfl
@[simp] theorem State.setM_LEN0 (s : State) (x : Vector (Option Byte) 128) : (s.setM x).LEN0 = s.LEN0 := rfl
@[simp] theorem State.setM_LEN1 (s : State) (x : Vector (Option Byte) 128) : (s.setM x).LEN1 = s.LEN1 := rfl
@[simp] theorem State.setM_LEN2 (s : State) (x : Vector (Option Byte) 128) : (s.setM x).LEN2 = s.LEN2 := rfl
@[simp] theorem State.setM_LEN3 (s : State) (x : Vector (Option Byte) 128) : (s.setM x).LEN3 = s.LEN3 := rfl
@[simp] theorem State.setM_RST (s : State) (x : Vector (Option Byte) 128) : (s.setM x).RST = s.RST := rfl
@[simp] theorem State.setM_MSG (s : State) (x : Vector (Option Byte) 128) : (s.setM x).MSG = s.MSG := rfl
@[simp] theorem State.setM_turns (s : State) (x : Vector (Option Byte) 128) : (s.setM x).turns = s.turns := rfl
@[simp] theorem State.setM_held (s : State) (x : Vector (Option Byte) 128) : (s.setM x).held = s.held := rfl
@[simp] theorem State.setM_reads (s : State) (x : Vector (Option Byte) 128) : (s.setM x).reads = s.reads := rfl
@[simp] theorem State.setM_msgReads (s : State) (x : Vector (Option Byte) 128) : (s.setM x).msgReads = s.msgReads := rfl
@[simp] theorem State.setM_tick (s : State) (x : Vector (Option Byte) 128) : (s.setM x).tick = s.tick := rfl

/-! ### `State.setSEQ` -/

@[simp] theorem State.setSEQ_H (s : State) (p : BitVec 3) (j : BitVec 119) (t : BitVec 7) : (s.setSEQ p j t).H = s.H := rfl
@[simp] theorem State.setSEQ_V (s : State) (p : BitVec 3) (j : BitVec 119) (t : BitVec 7) : (s.setSEQ p j t).V = s.V := rfl
@[simp] theorem State.setSEQ_W (s : State) (p : BitVec 3) (j : BitVec 119) (t : BitVec 7) : (s.setSEQ p j t).W = s.W := rfl
@[simp] theorem State.setSEQ_M (s : State) (p : BitVec 3) (j : BitVec 119) (t : BitVec 7) : (s.setSEQ p j t).M = s.M := rfl
@[simp] theorem State.setSEQ_PHASE (s : State) (p : BitVec 3) (j : BitVec 119) (t : BitVec 7) : (s.setSEQ p j t).PHASE = p := rfl
@[simp] theorem State.setSEQ_BIDX (s : State) (p : BitVec 3) (j : BitVec 119) (t : BitVec 7) : (s.setSEQ p j t).BIDX = j := rfl
@[simp] theorem State.setSEQ_T (s : State) (p : BitVec 3) (j : BitVec 119) (t : BitVec 7) : (s.setSEQ p j t).T = t := rfl
@[simp] theorem State.setSEQ_VAR (s : State) (p : BitVec 3) (j : BitVec 119) (t : BitVec 7) : (s.setSEQ p j t).VAR = s.VAR := rfl
@[simp] theorem State.setSEQ_L (s : State) (p : BitVec 3) (j : BitVec 119) (t : BitVec 7) : (s.setSEQ p j t).L = s.L := rfl
@[simp] theorem State.setSEQ_NBLK (s : State) (p : BitVec 3) (j : BitVec 119) (t : BitVec 7) : (s.setSEQ p j t).NBLK = s.NBLK := rfl
@[simp] theorem State.setSEQ_BUSY (s : State) (p : BitVec 3) (j : BitVec 119) (t : BitVec 7) : (s.setSEQ p j t).BUSY = s.BUSY := rfl
@[simp] theorem State.setSEQ_DONE (s : State) (p : BitVec 3) (j : BitVec 119) (t : BitVec 7) : (s.setSEQ p j t).DONE = s.DONE := rfl
@[simp] theorem State.setSEQ_ERR (s : State) (p : BitVec 3) (j : BitVec 119) (t : BitVec 7) : (s.setSEQ p j t).ERR = s.ERR := rfl
@[simp] theorem State.setSEQ_LEN0 (s : State) (p : BitVec 3) (j : BitVec 119) (t : BitVec 7) : (s.setSEQ p j t).LEN0 = s.LEN0 := rfl
@[simp] theorem State.setSEQ_LEN1 (s : State) (p : BitVec 3) (j : BitVec 119) (t : BitVec 7) : (s.setSEQ p j t).LEN1 = s.LEN1 := rfl
@[simp] theorem State.setSEQ_LEN2 (s : State) (p : BitVec 3) (j : BitVec 119) (t : BitVec 7) : (s.setSEQ p j t).LEN2 = s.LEN2 := rfl
@[simp] theorem State.setSEQ_LEN3 (s : State) (p : BitVec 3) (j : BitVec 119) (t : BitVec 7) : (s.setSEQ p j t).LEN3 = s.LEN3 := rfl
@[simp] theorem State.setSEQ_RST (s : State) (p : BitVec 3) (j : BitVec 119) (t : BitVec 7) : (s.setSEQ p j t).RST = s.RST := rfl
@[simp] theorem State.setSEQ_MSG (s : State) (p : BitVec 3) (j : BitVec 119) (t : BitVec 7) : (s.setSEQ p j t).MSG = s.MSG := rfl
@[simp] theorem State.setSEQ_turns (s : State) (p : BitVec 3) (j : BitVec 119) (t : BitVec 7) : (s.setSEQ p j t).turns = s.turns := rfl
@[simp] theorem State.setSEQ_held (s : State) (p : BitVec 3) (j : BitVec 119) (t : BitVec 7) : (s.setSEQ p j t).held = s.held := rfl
@[simp] theorem State.setSEQ_reads (s : State) (p : BitVec 3) (j : BitVec 119) (t : BitVec 7) : (s.setSEQ p j t).reads = s.reads := rfl
@[simp] theorem State.setSEQ_msgReads (s : State) (p : BitVec 3) (j : BitVec 119) (t : BitVec 7) : (s.setSEQ p j t).msgReads = s.msgReads := rfl
@[simp] theorem State.setSEQ_tick (s : State) (p : BitVec 3) (j : BitVec 119) (t : BitVec 7) : (s.setSEQ p j t).tick = s.tick := rfl

/-! ### `State.latch` -/

@[simp] theorem State.latch_H (s : State) (v : BitVec 3) (len : BitVec 128) : (s.latch v len).H = s.H := rfl
@[simp] theorem State.latch_V (s : State) (v : BitVec 3) (len : BitVec 128) : (s.latch v len).V = s.V := rfl
@[simp] theorem State.latch_W (s : State) (v : BitVec 3) (len : BitVec 128) : (s.latch v len).W = s.W := rfl
@[simp] theorem State.latch_M (s : State) (v : BitVec 3) (len : BitVec 128) : (s.latch v len).M = s.M := rfl
@[simp] theorem State.latch_PHASE (s : State) (v : BitVec 3) (len : BitVec 128) : (s.latch v len).PHASE = s.PHASE := rfl
@[simp] theorem State.latch_BIDX (s : State) (v : BitVec 3) (len : BitVec 128) : (s.latch v len).BIDX = s.BIDX := rfl
@[simp] theorem State.latch_T (s : State) (v : BitVec 3) (len : BitVec 128) : (s.latch v len).T = s.T := rfl
@[simp] theorem State.latch_VAR (s : State) (v : BitVec 3) (len : BitVec 128) : (s.latch v len).VAR = v := rfl
@[simp] theorem State.latch_L (s : State) (v : BitVec 3) (len : BitVec 128) : (s.latch v len).L = len := rfl
@[simp] theorem State.latch_NBLK (s : State) (v : BitVec 3) (len : BitVec 128) : (s.latch v len).NBLK = s.NBLK := rfl
@[simp] theorem State.latch_BUSY (s : State) (v : BitVec 3) (len : BitVec 128) : (s.latch v len).BUSY = s.BUSY := rfl
@[simp] theorem State.latch_DONE (s : State) (v : BitVec 3) (len : BitVec 128) : (s.latch v len).DONE = s.DONE := rfl
@[simp] theorem State.latch_ERR (s : State) (v : BitVec 3) (len : BitVec 128) : (s.latch v len).ERR = s.ERR := rfl
@[simp] theorem State.latch_LEN0 (s : State) (v : BitVec 3) (len : BitVec 128) : (s.latch v len).LEN0 = s.LEN0 := rfl
@[simp] theorem State.latch_LEN1 (s : State) (v : BitVec 3) (len : BitVec 128) : (s.latch v len).LEN1 = s.LEN1 := rfl
@[simp] theorem State.latch_LEN2 (s : State) (v : BitVec 3) (len : BitVec 128) : (s.latch v len).LEN2 = s.LEN2 := rfl
@[simp] theorem State.latch_LEN3 (s : State) (v : BitVec 3) (len : BitVec 128) : (s.latch v len).LEN3 = s.LEN3 := rfl
@[simp] theorem State.latch_RST (s : State) (v : BitVec 3) (len : BitVec 128) : (s.latch v len).RST = s.RST := rfl
@[simp] theorem State.latch_MSG (s : State) (v : BitVec 3) (len : BitVec 128) : (s.latch v len).MSG = s.MSG := rfl
@[simp] theorem State.latch_turns (s : State) (v : BitVec 3) (len : BitVec 128) : (s.latch v len).turns = s.turns := rfl
@[simp] theorem State.latch_held (s : State) (v : BitVec 3) (len : BitVec 128) : (s.latch v len).held = s.held := rfl
@[simp] theorem State.latch_reads (s : State) (v : BitVec 3) (len : BitVec 128) : (s.latch v len).reads = s.reads := rfl
@[simp] theorem State.latch_msgReads (s : State) (v : BitVec 3) (len : BitVec 128) : (s.latch v len).msgReads = s.msgReads := rfl
@[simp] theorem State.latch_tick (s : State) (v : BitVec 3) (len : BitVec 128) : (s.latch v len).tick = s.tick := rfl

/-! ### `State.setNBLK` -/

@[simp] theorem State.setNBLK_H (s : State) (x : BitVec 119) : (s.setNBLK x).H = s.H := rfl
@[simp] theorem State.setNBLK_V (s : State) (x : BitVec 119) : (s.setNBLK x).V = s.V := rfl
@[simp] theorem State.setNBLK_W (s : State) (x : BitVec 119) : (s.setNBLK x).W = s.W := rfl
@[simp] theorem State.setNBLK_M (s : State) (x : BitVec 119) : (s.setNBLK x).M = s.M := rfl
@[simp] theorem State.setNBLK_PHASE (s : State) (x : BitVec 119) : (s.setNBLK x).PHASE = s.PHASE := rfl
@[simp] theorem State.setNBLK_BIDX (s : State) (x : BitVec 119) : (s.setNBLK x).BIDX = s.BIDX := rfl
@[simp] theorem State.setNBLK_T (s : State) (x : BitVec 119) : (s.setNBLK x).T = s.T := rfl
@[simp] theorem State.setNBLK_VAR (s : State) (x : BitVec 119) : (s.setNBLK x).VAR = s.VAR := rfl
@[simp] theorem State.setNBLK_L (s : State) (x : BitVec 119) : (s.setNBLK x).L = s.L := rfl
@[simp] theorem State.setNBLK_NBLK (s : State) (x : BitVec 119) : (s.setNBLK x).NBLK = x := rfl
@[simp] theorem State.setNBLK_BUSY (s : State) (x : BitVec 119) : (s.setNBLK x).BUSY = s.BUSY := rfl
@[simp] theorem State.setNBLK_DONE (s : State) (x : BitVec 119) : (s.setNBLK x).DONE = s.DONE := rfl
@[simp] theorem State.setNBLK_ERR (s : State) (x : BitVec 119) : (s.setNBLK x).ERR = s.ERR := rfl
@[simp] theorem State.setNBLK_LEN0 (s : State) (x : BitVec 119) : (s.setNBLK x).LEN0 = s.LEN0 := rfl
@[simp] theorem State.setNBLK_LEN1 (s : State) (x : BitVec 119) : (s.setNBLK x).LEN1 = s.LEN1 := rfl
@[simp] theorem State.setNBLK_LEN2 (s : State) (x : BitVec 119) : (s.setNBLK x).LEN2 = s.LEN2 := rfl
@[simp] theorem State.setNBLK_LEN3 (s : State) (x : BitVec 119) : (s.setNBLK x).LEN3 = s.LEN3 := rfl
@[simp] theorem State.setNBLK_RST (s : State) (x : BitVec 119) : (s.setNBLK x).RST = s.RST := rfl
@[simp] theorem State.setNBLK_MSG (s : State) (x : BitVec 119) : (s.setNBLK x).MSG = s.MSG := rfl
@[simp] theorem State.setNBLK_turns (s : State) (x : BitVec 119) : (s.setNBLK x).turns = s.turns := rfl
@[simp] theorem State.setNBLK_held (s : State) (x : BitVec 119) : (s.setNBLK x).held = s.held := rfl
@[simp] theorem State.setNBLK_reads (s : State) (x : BitVec 119) : (s.setNBLK x).reads = s.reads := rfl
@[simp] theorem State.setNBLK_msgReads (s : State) (x : BitVec 119) : (s.setNBLK x).msgReads = s.msgReads := rfl
@[simp] theorem State.setNBLK_tick (s : State) (x : BitVec 119) : (s.setNBLK x).tick = s.tick := rfl

/-! ### `State.clearResult` -/

@[simp] theorem State.clearResult_H (s : State) : s.clearResult.H = s.H := rfl
@[simp] theorem State.clearResult_V (s : State) : s.clearResult.V = s.V := rfl
@[simp] theorem State.clearResult_W (s : State) : s.clearResult.W = s.W := rfl
@[simp] theorem State.clearResult_M (s : State) : s.clearResult.M = s.M := rfl
@[simp] theorem State.clearResult_PHASE (s : State) : s.clearResult.PHASE = s.PHASE := rfl
@[simp] theorem State.clearResult_BIDX (s : State) : s.clearResult.BIDX = s.BIDX := rfl
@[simp] theorem State.clearResult_T (s : State) : s.clearResult.T = s.T := rfl
@[simp] theorem State.clearResult_VAR (s : State) : s.clearResult.VAR = s.VAR := rfl
@[simp] theorem State.clearResult_L (s : State) : s.clearResult.L = s.L := rfl
@[simp] theorem State.clearResult_NBLK (s : State) : s.clearResult.NBLK = s.NBLK := rfl
@[simp] theorem State.clearResult_BUSY (s : State) : s.clearResult.BUSY = s.BUSY := rfl
@[simp] theorem State.clearResult_DONE (s : State) : s.clearResult.DONE = false := rfl
@[simp] theorem State.clearResult_ERR (s : State) : s.clearResult.ERR = false := rfl
@[simp] theorem State.clearResult_LEN0 (s : State) : s.clearResult.LEN0 = s.LEN0 := rfl
@[simp] theorem State.clearResult_LEN1 (s : State) : s.clearResult.LEN1 = s.LEN1 := rfl
@[simp] theorem State.clearResult_LEN2 (s : State) : s.clearResult.LEN2 = s.LEN2 := rfl
@[simp] theorem State.clearResult_LEN3 (s : State) : s.clearResult.LEN3 = s.LEN3 := rfl
@[simp] theorem State.clearResult_RST (s : State) : s.clearResult.RST = s.RST := rfl
@[simp] theorem State.clearResult_MSG (s : State) : s.clearResult.MSG = s.MSG := rfl
@[simp] theorem State.clearResult_turns (s : State) : s.clearResult.turns = s.turns := rfl
@[simp] theorem State.clearResult_held (s : State) : s.clearResult.held = s.held := rfl
@[simp] theorem State.clearResult_reads (s : State) : s.clearResult.reads = s.reads := rfl
@[simp] theorem State.clearResult_msgReads (s : State) : s.clearResult.msgReads = s.msgReads := rfl
@[simp] theorem State.clearResult_tick (s : State) : s.clearResult.tick = s.tick := rfl

/-! ### `State.startBusy` -/

@[simp] theorem State.startBusy_H (s : State) : s.startBusy.H = s.H := rfl
@[simp] theorem State.startBusy_V (s : State) : s.startBusy.V = s.V := rfl
@[simp] theorem State.startBusy_W (s : State) : s.startBusy.W = s.W := rfl
@[simp] theorem State.startBusy_M (s : State) : s.startBusy.M = s.M := rfl
@[simp] theorem State.startBusy_PHASE (s : State) : s.startBusy.PHASE = s.PHASE := rfl
@[simp] theorem State.startBusy_BIDX (s : State) : s.startBusy.BIDX = s.BIDX := rfl
@[simp] theorem State.startBusy_T (s : State) : s.startBusy.T = s.T := rfl
@[simp] theorem State.startBusy_VAR (s : State) : s.startBusy.VAR = s.VAR := rfl
@[simp] theorem State.startBusy_L (s : State) : s.startBusy.L = s.L := rfl
@[simp] theorem State.startBusy_NBLK (s : State) : s.startBusy.NBLK = s.NBLK := rfl
@[simp] theorem State.startBusy_BUSY (s : State) : s.startBusy.BUSY = true := rfl
@[simp] theorem State.startBusy_DONE (s : State) : s.startBusy.DONE = s.DONE := rfl
@[simp] theorem State.startBusy_ERR (s : State) : s.startBusy.ERR = s.ERR := rfl
@[simp] theorem State.startBusy_LEN0 (s : State) : s.startBusy.LEN0 = s.LEN0 := rfl
@[simp] theorem State.startBusy_LEN1 (s : State) : s.startBusy.LEN1 = s.LEN1 := rfl
@[simp] theorem State.startBusy_LEN2 (s : State) : s.startBusy.LEN2 = s.LEN2 := rfl
@[simp] theorem State.startBusy_LEN3 (s : State) : s.startBusy.LEN3 = s.LEN3 := rfl
@[simp] theorem State.startBusy_RST (s : State) : s.startBusy.RST = s.RST := rfl
@[simp] theorem State.startBusy_MSG (s : State) : s.startBusy.MSG = s.MSG := rfl
@[simp] theorem State.startBusy_turns (s : State) : s.startBusy.turns = s.turns := rfl
@[simp] theorem State.startBusy_held (s : State) : s.startBusy.held = s.held := rfl
@[simp] theorem State.startBusy_reads (s : State) : s.startBusy.reads = s.reads := rfl
@[simp] theorem State.startBusy_msgReads (s : State) : s.startBusy.msgReads = s.msgReads := rfl
@[simp] theorem State.startBusy_tick (s : State) : s.startBusy.tick = s.tick := rfl

/-! ### `State.complete` -/

@[simp] theorem State.complete_H (s : State) : s.complete.H = s.H := rfl
@[simp] theorem State.complete_V (s : State) : s.complete.V = s.V := rfl
@[simp] theorem State.complete_W (s : State) : s.complete.W = s.W := rfl
@[simp] theorem State.complete_M (s : State) : s.complete.M = s.M := rfl
@[simp] theorem State.complete_PHASE (s : State) : s.complete.PHASE = s.PHASE := rfl
@[simp] theorem State.complete_BIDX (s : State) : s.complete.BIDX = s.BIDX := rfl
@[simp] theorem State.complete_T (s : State) : s.complete.T = s.T := rfl
@[simp] theorem State.complete_VAR (s : State) : s.complete.VAR = s.VAR := rfl
@[simp] theorem State.complete_L (s : State) : s.complete.L = s.L := rfl
@[simp] theorem State.complete_NBLK (s : State) : s.complete.NBLK = s.NBLK := rfl
@[simp] theorem State.complete_BUSY (s : State) : s.complete.BUSY = false := rfl
@[simp] theorem State.complete_DONE (s : State) : s.complete.DONE = true := rfl
@[simp] theorem State.complete_ERR (s : State) : s.complete.ERR = s.ERR := rfl
@[simp] theorem State.complete_LEN0 (s : State) : s.complete.LEN0 = s.LEN0 := rfl
@[simp] theorem State.complete_LEN1 (s : State) : s.complete.LEN1 = s.LEN1 := rfl
@[simp] theorem State.complete_LEN2 (s : State) : s.complete.LEN2 = s.LEN2 := rfl
@[simp] theorem State.complete_LEN3 (s : State) : s.complete.LEN3 = s.LEN3 := rfl
@[simp] theorem State.complete_RST (s : State) : s.complete.RST = s.RST := rfl
@[simp] theorem State.complete_MSG (s : State) : s.complete.MSG = s.MSG := rfl
@[simp] theorem State.complete_turns (s : State) : s.complete.turns = s.turns := rfl
@[simp] theorem State.complete_held (s : State) : s.complete.held = s.held := rfl
@[simp] theorem State.complete_reads (s : State) : s.complete.reads = s.reads := rfl
@[simp] theorem State.complete_msgReads (s : State) : s.complete.msgReads = s.msgReads := rfl
@[simp] theorem State.complete_tick (s : State) : s.complete.tick = s.tick := rfl

/-! ### `State.raiseLengthOverflow` -/

@[simp] theorem State.raiseLengthOverflow_H (s : State) : s.raiseLengthOverflow.H = s.H := rfl
@[simp] theorem State.raiseLengthOverflow_V (s : State) : s.raiseLengthOverflow.V = s.V := rfl
@[simp] theorem State.raiseLengthOverflow_W (s : State) : s.raiseLengthOverflow.W = s.W := rfl
@[simp] theorem State.raiseLengthOverflow_M (s : State) : s.raiseLengthOverflow.M = s.M := rfl
@[simp] theorem State.raiseLengthOverflow_PHASE (s : State) : s.raiseLengthOverflow.PHASE = s.PHASE := rfl
@[simp] theorem State.raiseLengthOverflow_BIDX (s : State) : s.raiseLengthOverflow.BIDX = s.BIDX := rfl
@[simp] theorem State.raiseLengthOverflow_T (s : State) : s.raiseLengthOverflow.T = s.T := rfl
@[simp] theorem State.raiseLengthOverflow_VAR (s : State) : s.raiseLengthOverflow.VAR = s.VAR := rfl
@[simp] theorem State.raiseLengthOverflow_L (s : State) : s.raiseLengthOverflow.L = s.L := rfl
@[simp] theorem State.raiseLengthOverflow_NBLK (s : State) : s.raiseLengthOverflow.NBLK = s.NBLK := rfl
@[simp] theorem State.raiseLengthOverflow_BUSY (s : State) : s.raiseLengthOverflow.BUSY = s.BUSY := rfl
@[simp] theorem State.raiseLengthOverflow_DONE (s : State) : s.raiseLengthOverflow.DONE = s.DONE := rfl
@[simp] theorem State.raiseLengthOverflow_ERR (s : State) : s.raiseLengthOverflow.ERR = true := rfl
@[simp] theorem State.raiseLengthOverflow_LEN0 (s : State) : s.raiseLengthOverflow.LEN0 = s.LEN0 := rfl
@[simp] theorem State.raiseLengthOverflow_LEN1 (s : State) : s.raiseLengthOverflow.LEN1 = s.LEN1 := rfl
@[simp] theorem State.raiseLengthOverflow_LEN2 (s : State) : s.raiseLengthOverflow.LEN2 = s.LEN2 := rfl
@[simp] theorem State.raiseLengthOverflow_LEN3 (s : State) : s.raiseLengthOverflow.LEN3 = s.LEN3 := rfl
@[simp] theorem State.raiseLengthOverflow_RST (s : State) : s.raiseLengthOverflow.RST = s.RST := rfl
@[simp] theorem State.raiseLengthOverflow_MSG (s : State) : s.raiseLengthOverflow.MSG = s.MSG := rfl
@[simp] theorem State.raiseLengthOverflow_turns (s : State) : s.raiseLengthOverflow.turns = s.turns := rfl
@[simp] theorem State.raiseLengthOverflow_held (s : State) : s.raiseLengthOverflow.held = s.held := rfl
@[simp] theorem State.raiseLengthOverflow_reads (s : State) : s.raiseLengthOverflow.reads = s.reads := rfl
@[simp] theorem State.raiseLengthOverflow_msgReads (s : State) : s.raiseLengthOverflow.msgReads = s.msgReads := rfl
@[simp] theorem State.raiseLengthOverflow_tick (s : State) : s.raiseLengthOverflow.tick = s.tick := rfl

/-! ### `State.placeByte` -/

@[simp] theorem State.placeByte_H (s : State) (a : BitVec 125) (b : Byte) : (s.placeByte a b).H = s.H := rfl
@[simp] theorem State.placeByte_V (s : State) (a : BitVec 125) (b : Byte) : (s.placeByte a b).V = s.V := rfl
@[simp] theorem State.placeByte_W (s : State) (a : BitVec 125) (b : Byte) : (s.placeByte a b).W = s.W := rfl
@[simp] theorem State.placeByte_M (s : State) (a : BitVec 125) (b : Byte) : (s.placeByte a b).M = s.M := rfl
@[simp] theorem State.placeByte_PHASE (s : State) (a : BitVec 125) (b : Byte) : (s.placeByte a b).PHASE = s.PHASE := rfl
@[simp] theorem State.placeByte_BIDX (s : State) (a : BitVec 125) (b : Byte) : (s.placeByte a b).BIDX = s.BIDX := rfl
@[simp] theorem State.placeByte_T (s : State) (a : BitVec 125) (b : Byte) : (s.placeByte a b).T = s.T := rfl
@[simp] theorem State.placeByte_VAR (s : State) (a : BitVec 125) (b : Byte) : (s.placeByte a b).VAR = s.VAR := rfl
@[simp] theorem State.placeByte_L (s : State) (a : BitVec 125) (b : Byte) : (s.placeByte a b).L = s.L := rfl
@[simp] theorem State.placeByte_NBLK (s : State) (a : BitVec 125) (b : Byte) : (s.placeByte a b).NBLK = s.NBLK := rfl
@[simp] theorem State.placeByte_BUSY (s : State) (a : BitVec 125) (b : Byte) : (s.placeByte a b).BUSY = s.BUSY := rfl
@[simp] theorem State.placeByte_DONE (s : State) (a : BitVec 125) (b : Byte) : (s.placeByte a b).DONE = s.DONE := rfl
@[simp] theorem State.placeByte_ERR (s : State) (a : BitVec 125) (b : Byte) : (s.placeByte a b).ERR = s.ERR := rfl
@[simp] theorem State.placeByte_LEN0 (s : State) (a : BitVec 125) (b : Byte) : (s.placeByte a b).LEN0 = s.LEN0 := rfl
@[simp] theorem State.placeByte_LEN1 (s : State) (a : BitVec 125) (b : Byte) : (s.placeByte a b).LEN1 = s.LEN1 := rfl
@[simp] theorem State.placeByte_LEN2 (s : State) (a : BitVec 125) (b : Byte) : (s.placeByte a b).LEN2 = s.LEN2 := rfl
@[simp] theorem State.placeByte_LEN3 (s : State) (a : BitVec 125) (b : Byte) : (s.placeByte a b).LEN3 = s.LEN3 := rfl
@[simp] theorem State.placeByte_RST (s : State) (a : BitVec 125) (b : Byte) : (s.placeByte a b).RST = s.RST := rfl
@[simp] theorem State.placeByte_MSG (s : State) (a : BitVec 125) (b : Byte) : (s.placeByte a b).MSG = Memory.write s.MSG a.toNat b := rfl
@[simp] theorem State.placeByte_turns (s : State) (a : BitVec 125) (b : Byte) : (s.placeByte a b).turns = s.turns := rfl
@[simp] theorem State.placeByte_held (s : State) (a : BitVec 125) (b : Byte) : (s.placeByte a b).held = s.held := rfl
@[simp] theorem State.placeByte_reads (s : State) (a : BitVec 125) (b : Byte) : (s.placeByte a b).reads = s.reads := rfl
@[simp] theorem State.placeByte_msgReads (s : State) (a : BitVec 125) (b : Byte) : (s.placeByte a b).msgReads = s.msgReads := rfl
@[simp] theorem State.placeByte_tick (s : State) (a : BitVec 125) (b : Byte) : (s.placeByte a b).tick = s.tick := rfl

/-! ### `State.setTurns` -/

@[simp] theorem State.setTurns_H (s : State) (ts : List Turn) : (s.setTurns ts).H = s.H := rfl
@[simp] theorem State.setTurns_V (s : State) (ts : List Turn) : (s.setTurns ts).V = s.V := rfl
@[simp] theorem State.setTurns_W (s : State) (ts : List Turn) : (s.setTurns ts).W = s.W := rfl
@[simp] theorem State.setTurns_M (s : State) (ts : List Turn) : (s.setTurns ts).M = s.M := rfl
@[simp] theorem State.setTurns_PHASE (s : State) (ts : List Turn) : (s.setTurns ts).PHASE = s.PHASE := rfl
@[simp] theorem State.setTurns_BIDX (s : State) (ts : List Turn) : (s.setTurns ts).BIDX = s.BIDX := rfl
@[simp] theorem State.setTurns_T (s : State) (ts : List Turn) : (s.setTurns ts).T = s.T := rfl
@[simp] theorem State.setTurns_VAR (s : State) (ts : List Turn) : (s.setTurns ts).VAR = s.VAR := rfl
@[simp] theorem State.setTurns_L (s : State) (ts : List Turn) : (s.setTurns ts).L = s.L := rfl
@[simp] theorem State.setTurns_NBLK (s : State) (ts : List Turn) : (s.setTurns ts).NBLK = s.NBLK := rfl
@[simp] theorem State.setTurns_BUSY (s : State) (ts : List Turn) : (s.setTurns ts).BUSY = s.BUSY := rfl
@[simp] theorem State.setTurns_DONE (s : State) (ts : List Turn) : (s.setTurns ts).DONE = s.DONE := rfl
@[simp] theorem State.setTurns_ERR (s : State) (ts : List Turn) : (s.setTurns ts).ERR = s.ERR := rfl
@[simp] theorem State.setTurns_LEN0 (s : State) (ts : List Turn) : (s.setTurns ts).LEN0 = s.LEN0 := rfl
@[simp] theorem State.setTurns_LEN1 (s : State) (ts : List Turn) : (s.setTurns ts).LEN1 = s.LEN1 := rfl
@[simp] theorem State.setTurns_LEN2 (s : State) (ts : List Turn) : (s.setTurns ts).LEN2 = s.LEN2 := rfl
@[simp] theorem State.setTurns_LEN3 (s : State) (ts : List Turn) : (s.setTurns ts).LEN3 = s.LEN3 := rfl
@[simp] theorem State.setTurns_RST (s : State) (ts : List Turn) : (s.setTurns ts).RST = s.RST := rfl
@[simp] theorem State.setTurns_MSG (s : State) (ts : List Turn) : (s.setTurns ts).MSG = s.MSG := rfl
@[simp] theorem State.setTurns_turns (s : State) (ts : List Turn) : (s.setTurns ts).turns = ts := rfl
@[simp] theorem State.setTurns_held (s : State) (ts : List Turn) : (s.setTurns ts).held = s.held := rfl
@[simp] theorem State.setTurns_reads (s : State) (ts : List Turn) : (s.setTurns ts).reads = s.reads := rfl
@[simp] theorem State.setTurns_msgReads (s : State) (ts : List Turn) : (s.setTurns ts).msgReads = s.msgReads := rfl
@[simp] theorem State.setTurns_tick (s : State) (ts : List Turn) : (s.setTurns ts).tick = s.tick := rfl

/-! ### `State.setHeld` -/

@[simp] theorem State.setHeld_H (s : State) (w : Option Word32) : (s.setHeld w).H = s.H := rfl
@[simp] theorem State.setHeld_V (s : State) (w : Option Word32) : (s.setHeld w).V = s.V := rfl
@[simp] theorem State.setHeld_W (s : State) (w : Option Word32) : (s.setHeld w).W = s.W := rfl
@[simp] theorem State.setHeld_M (s : State) (w : Option Word32) : (s.setHeld w).M = s.M := rfl
@[simp] theorem State.setHeld_PHASE (s : State) (w : Option Word32) : (s.setHeld w).PHASE = s.PHASE := rfl
@[simp] theorem State.setHeld_BIDX (s : State) (w : Option Word32) : (s.setHeld w).BIDX = s.BIDX := rfl
@[simp] theorem State.setHeld_T (s : State) (w : Option Word32) : (s.setHeld w).T = s.T := rfl
@[simp] theorem State.setHeld_VAR (s : State) (w : Option Word32) : (s.setHeld w).VAR = s.VAR := rfl
@[simp] theorem State.setHeld_L (s : State) (w : Option Word32) : (s.setHeld w).L = s.L := rfl
@[simp] theorem State.setHeld_NBLK (s : State) (w : Option Word32) : (s.setHeld w).NBLK = s.NBLK := rfl
@[simp] theorem State.setHeld_BUSY (s : State) (w : Option Word32) : (s.setHeld w).BUSY = s.BUSY := rfl
@[simp] theorem State.setHeld_DONE (s : State) (w : Option Word32) : (s.setHeld w).DONE = s.DONE := rfl
@[simp] theorem State.setHeld_ERR (s : State) (w : Option Word32) : (s.setHeld w).ERR = s.ERR := rfl
@[simp] theorem State.setHeld_LEN0 (s : State) (w : Option Word32) : (s.setHeld w).LEN0 = s.LEN0 := rfl
@[simp] theorem State.setHeld_LEN1 (s : State) (w : Option Word32) : (s.setHeld w).LEN1 = s.LEN1 := rfl
@[simp] theorem State.setHeld_LEN2 (s : State) (w : Option Word32) : (s.setHeld w).LEN2 = s.LEN2 := rfl
@[simp] theorem State.setHeld_LEN3 (s : State) (w : Option Word32) : (s.setHeld w).LEN3 = s.LEN3 := rfl
@[simp] theorem State.setHeld_RST (s : State) (w : Option Word32) : (s.setHeld w).RST = s.RST := rfl
@[simp] theorem State.setHeld_MSG (s : State) (w : Option Word32) : (s.setHeld w).MSG = s.MSG := rfl
@[simp] theorem State.setHeld_turns (s : State) (w : Option Word32) : (s.setHeld w).turns = s.turns := rfl
@[simp] theorem State.setHeld_held (s : State) (w : Option Word32) : (s.setHeld w).held = w := rfl
@[simp] theorem State.setHeld_reads (s : State) (w : Option Word32) : (s.setHeld w).reads = s.reads := rfl
@[simp] theorem State.setHeld_msgReads (s : State) (w : Option Word32) : (s.setHeld w).msgReads = s.msgReads := rfl
@[simp] theorem State.setHeld_tick (s : State) (w : Option Word32) : (s.setHeld w).tick = s.tick := rfl

/-! ### `State.logRead` -/

@[simp] theorem State.logRead_H (s : State) (n : BitVec 5) (x : Word32) : (s.logRead n x).H = s.H := rfl
@[simp] theorem State.logRead_V (s : State) (n : BitVec 5) (x : Word32) : (s.logRead n x).V = s.V := rfl
@[simp] theorem State.logRead_W (s : State) (n : BitVec 5) (x : Word32) : (s.logRead n x).W = s.W := rfl
@[simp] theorem State.logRead_M (s : State) (n : BitVec 5) (x : Word32) : (s.logRead n x).M = s.M := rfl
@[simp] theorem State.logRead_PHASE (s : State) (n : BitVec 5) (x : Word32) : (s.logRead n x).PHASE = s.PHASE := rfl
@[simp] theorem State.logRead_BIDX (s : State) (n : BitVec 5) (x : Word32) : (s.logRead n x).BIDX = s.BIDX := rfl
@[simp] theorem State.logRead_T (s : State) (n : BitVec 5) (x : Word32) : (s.logRead n x).T = s.T := rfl
@[simp] theorem State.logRead_VAR (s : State) (n : BitVec 5) (x : Word32) : (s.logRead n x).VAR = s.VAR := rfl
@[simp] theorem State.logRead_L (s : State) (n : BitVec 5) (x : Word32) : (s.logRead n x).L = s.L := rfl
@[simp] theorem State.logRead_NBLK (s : State) (n : BitVec 5) (x : Word32) : (s.logRead n x).NBLK = s.NBLK := rfl
@[simp] theorem State.logRead_BUSY (s : State) (n : BitVec 5) (x : Word32) : (s.logRead n x).BUSY = s.BUSY := rfl
@[simp] theorem State.logRead_DONE (s : State) (n : BitVec 5) (x : Word32) : (s.logRead n x).DONE = s.DONE := rfl
@[simp] theorem State.logRead_ERR (s : State) (n : BitVec 5) (x : Word32) : (s.logRead n x).ERR = s.ERR := rfl
@[simp] theorem State.logRead_LEN0 (s : State) (n : BitVec 5) (x : Word32) : (s.logRead n x).LEN0 = s.LEN0 := rfl
@[simp] theorem State.logRead_LEN1 (s : State) (n : BitVec 5) (x : Word32) : (s.logRead n x).LEN1 = s.LEN1 := rfl
@[simp] theorem State.logRead_LEN2 (s : State) (n : BitVec 5) (x : Word32) : (s.logRead n x).LEN2 = s.LEN2 := rfl
@[simp] theorem State.logRead_LEN3 (s : State) (n : BitVec 5) (x : Word32) : (s.logRead n x).LEN3 = s.LEN3 := rfl
@[simp] theorem State.logRead_RST (s : State) (n : BitVec 5) (x : Word32) : (s.logRead n x).RST = s.RST := rfl
@[simp] theorem State.logRead_MSG (s : State) (n : BitVec 5) (x : Word32) : (s.logRead n x).MSG = s.MSG := rfl
@[simp] theorem State.logRead_turns (s : State) (n : BitVec 5) (x : Word32) : (s.logRead n x).turns = s.turns := rfl
@[simp] theorem State.logRead_held (s : State) (n : BitVec 5) (x : Word32) : (s.logRead n x).held = s.held := rfl
@[simp] theorem State.logRead_reads (s : State) (n : BitVec 5) (x : Word32) : (s.logRead n x).reads = s.reads ++ [(n, x)] := rfl
@[simp] theorem State.logRead_msgReads (s : State) (n : BitVec 5) (x : Word32) : (s.logRead n x).msgReads = s.msgReads := rfl
@[simp] theorem State.logRead_tick (s : State) (n : BitVec 5) (x : Word32) : (s.logRead n x).tick = s.tick := rfl

/-! ### `State.logMsgReads` -/

@[simp] theorem State.logMsgReads_H (s : State) (xs : List Nat) : (s.logMsgReads xs).H = s.H := rfl
@[simp] theorem State.logMsgReads_V (s : State) (xs : List Nat) : (s.logMsgReads xs).V = s.V := rfl
@[simp] theorem State.logMsgReads_W (s : State) (xs : List Nat) : (s.logMsgReads xs).W = s.W := rfl
@[simp] theorem State.logMsgReads_M (s : State) (xs : List Nat) : (s.logMsgReads xs).M = s.M := rfl
@[simp] theorem State.logMsgReads_PHASE (s : State) (xs : List Nat) : (s.logMsgReads xs).PHASE = s.PHASE := rfl
@[simp] theorem State.logMsgReads_BIDX (s : State) (xs : List Nat) : (s.logMsgReads xs).BIDX = s.BIDX := rfl
@[simp] theorem State.logMsgReads_T (s : State) (xs : List Nat) : (s.logMsgReads xs).T = s.T := rfl
@[simp] theorem State.logMsgReads_VAR (s : State) (xs : List Nat) : (s.logMsgReads xs).VAR = s.VAR := rfl
@[simp] theorem State.logMsgReads_L (s : State) (xs : List Nat) : (s.logMsgReads xs).L = s.L := rfl
@[simp] theorem State.logMsgReads_NBLK (s : State) (xs : List Nat) : (s.logMsgReads xs).NBLK = s.NBLK := rfl
@[simp] theorem State.logMsgReads_BUSY (s : State) (xs : List Nat) : (s.logMsgReads xs).BUSY = s.BUSY := rfl
@[simp] theorem State.logMsgReads_DONE (s : State) (xs : List Nat) : (s.logMsgReads xs).DONE = s.DONE := rfl
@[simp] theorem State.logMsgReads_ERR (s : State) (xs : List Nat) : (s.logMsgReads xs).ERR = s.ERR := rfl
@[simp] theorem State.logMsgReads_LEN0 (s : State) (xs : List Nat) : (s.logMsgReads xs).LEN0 = s.LEN0 := rfl
@[simp] theorem State.logMsgReads_LEN1 (s : State) (xs : List Nat) : (s.logMsgReads xs).LEN1 = s.LEN1 := rfl
@[simp] theorem State.logMsgReads_LEN2 (s : State) (xs : List Nat) : (s.logMsgReads xs).LEN2 = s.LEN2 := rfl
@[simp] theorem State.logMsgReads_LEN3 (s : State) (xs : List Nat) : (s.logMsgReads xs).LEN3 = s.LEN3 := rfl
@[simp] theorem State.logMsgReads_RST (s : State) (xs : List Nat) : (s.logMsgReads xs).RST = s.RST := rfl
@[simp] theorem State.logMsgReads_MSG (s : State) (xs : List Nat) : (s.logMsgReads xs).MSG = s.MSG := rfl
@[simp] theorem State.logMsgReads_turns (s : State) (xs : List Nat) : (s.logMsgReads xs).turns = s.turns := rfl
@[simp] theorem State.logMsgReads_held (s : State) (xs : List Nat) : (s.logMsgReads xs).held = s.held := rfl
@[simp] theorem State.logMsgReads_reads (s : State) (xs : List Nat) : (s.logMsgReads xs).reads = s.reads := rfl
@[simp] theorem State.logMsgReads_msgReads (s : State) (xs : List Nat) : (s.logMsgReads xs).msgReads = s.msgReads ++ xs := rfl
@[simp] theorem State.logMsgReads_tick (s : State) (xs : List Nat) : (s.logMsgReads xs).tick = s.tick := rfl

/-! ### `State.assertReset` -/

@[simp] theorem State.assertReset_H (s : State) : s.assertReset.H = s.H := rfl
@[simp] theorem State.assertReset_V (s : State) : s.assertReset.V = s.V := rfl
@[simp] theorem State.assertReset_W (s : State) : s.assertReset.W = s.W := rfl
@[simp] theorem State.assertReset_M (s : State) : s.assertReset.M = s.M := rfl
@[simp] theorem State.assertReset_PHASE (s : State) : s.assertReset.PHASE = s.PHASE := rfl
@[simp] theorem State.assertReset_BIDX (s : State) : s.assertReset.BIDX = s.BIDX := rfl
@[simp] theorem State.assertReset_T (s : State) : s.assertReset.T = s.T := rfl
@[simp] theorem State.assertReset_VAR (s : State) : s.assertReset.VAR = s.VAR := rfl
@[simp] theorem State.assertReset_L (s : State) : s.assertReset.L = s.L := rfl
@[simp] theorem State.assertReset_NBLK (s : State) : s.assertReset.NBLK = s.NBLK := rfl
@[simp] theorem State.assertReset_BUSY (s : State) : s.assertReset.BUSY = s.BUSY := rfl
@[simp] theorem State.assertReset_DONE (s : State) : s.assertReset.DONE = s.DONE := rfl
@[simp] theorem State.assertReset_ERR (s : State) : s.assertReset.ERR = s.ERR := rfl
@[simp] theorem State.assertReset_LEN0 (s : State) : s.assertReset.LEN0 = s.LEN0 := rfl
@[simp] theorem State.assertReset_LEN1 (s : State) : s.assertReset.LEN1 = s.LEN1 := rfl
@[simp] theorem State.assertReset_LEN2 (s : State) : s.assertReset.LEN2 = s.LEN2 := rfl
@[simp] theorem State.assertReset_LEN3 (s : State) : s.assertReset.LEN3 = s.LEN3 := rfl
@[simp] theorem State.assertReset_RST (s : State) : s.assertReset.RST = true := rfl
@[simp] theorem State.assertReset_MSG (s : State) : s.assertReset.MSG = s.MSG := rfl
@[simp] theorem State.assertReset_turns (s : State) : s.assertReset.turns = s.turns := rfl
@[simp] theorem State.assertReset_held (s : State) : s.assertReset.held = none := rfl
@[simp] theorem State.assertReset_reads (s : State) : s.assertReset.reads = s.reads := rfl
@[simp] theorem State.assertReset_msgReads (s : State) : s.assertReset.msgReads = s.msgReads := rfl
@[simp] theorem State.assertReset_tick (s : State) : s.assertReset.tick = s.tick := rfl

/-! ### `State.nextTick` -/

@[simp] theorem State.nextTick_H (s : State) : s.nextTick.H = s.H := rfl
@[simp] theorem State.nextTick_V (s : State) : s.nextTick.V = s.V := rfl
@[simp] theorem State.nextTick_W (s : State) : s.nextTick.W = s.W := rfl
@[simp] theorem State.nextTick_M (s : State) : s.nextTick.M = s.M := rfl
@[simp] theorem State.nextTick_PHASE (s : State) : s.nextTick.PHASE = s.PHASE := rfl
@[simp] theorem State.nextTick_BIDX (s : State) : s.nextTick.BIDX = s.BIDX := rfl
@[simp] theorem State.nextTick_T (s : State) : s.nextTick.T = s.T := rfl
@[simp] theorem State.nextTick_VAR (s : State) : s.nextTick.VAR = s.VAR := rfl
@[simp] theorem State.nextTick_L (s : State) : s.nextTick.L = s.L := rfl
@[simp] theorem State.nextTick_NBLK (s : State) : s.nextTick.NBLK = s.NBLK := rfl
@[simp] theorem State.nextTick_BUSY (s : State) : s.nextTick.BUSY = s.BUSY := rfl
@[simp] theorem State.nextTick_DONE (s : State) : s.nextTick.DONE = s.DONE := rfl
@[simp] theorem State.nextTick_ERR (s : State) : s.nextTick.ERR = s.ERR := rfl
@[simp] theorem State.nextTick_LEN0 (s : State) : s.nextTick.LEN0 = s.LEN0 := rfl
@[simp] theorem State.nextTick_LEN1 (s : State) : s.nextTick.LEN1 = s.LEN1 := rfl
@[simp] theorem State.nextTick_LEN2 (s : State) : s.nextTick.LEN2 = s.LEN2 := rfl
@[simp] theorem State.nextTick_LEN3 (s : State) : s.nextTick.LEN3 = s.LEN3 := rfl
@[simp] theorem State.nextTick_RST (s : State) : s.nextTick.RST = s.RST := rfl
@[simp] theorem State.nextTick_MSG (s : State) : s.nextTick.MSG = s.MSG := rfl
@[simp] theorem State.nextTick_turns (s : State) : s.nextTick.turns = s.turns := rfl
@[simp] theorem State.nextTick_held (s : State) : s.nextTick.held = s.held := rfl
@[simp] theorem State.nextTick_reads (s : State) : s.nextTick.reads = s.reads := rfl
@[simp] theorem State.nextTick_msgReads (s : State) : s.nextTick.msgReads = s.msgReads := rfl
@[simp] theorem State.nextTick_tick (s : State) : s.nextTick.tick = s.tick + 1 := rfl

/-! ### `State.setLEN` -/

@[simp] theorem State.setLEN_H (s : State) (n : BitVec 5) (x : Word32) : (s.setLEN n x).H = s.H := by
  unfold State.setLEN; split_ifs <;> rfl
@[simp] theorem State.setLEN_V (s : State) (n : BitVec 5) (x : Word32) : (s.setLEN n x).V = s.V := by
  unfold State.setLEN; split_ifs <;> rfl
@[simp] theorem State.setLEN_W (s : State) (n : BitVec 5) (x : Word32) : (s.setLEN n x).W = s.W := by
  unfold State.setLEN; split_ifs <;> rfl
@[simp] theorem State.setLEN_M (s : State) (n : BitVec 5) (x : Word32) : (s.setLEN n x).M = s.M := by
  unfold State.setLEN; split_ifs <;> rfl
@[simp] theorem State.setLEN_PHASE (s : State) (n : BitVec 5) (x : Word32) : (s.setLEN n x).PHASE = s.PHASE := by
  unfold State.setLEN; split_ifs <;> rfl
@[simp] theorem State.setLEN_BIDX (s : State) (n : BitVec 5) (x : Word32) : (s.setLEN n x).BIDX = s.BIDX := by
  unfold State.setLEN; split_ifs <;> rfl
@[simp] theorem State.setLEN_T (s : State) (n : BitVec 5) (x : Word32) : (s.setLEN n x).T = s.T := by
  unfold State.setLEN; split_ifs <;> rfl
@[simp] theorem State.setLEN_VAR (s : State) (n : BitVec 5) (x : Word32) : (s.setLEN n x).VAR = s.VAR := by
  unfold State.setLEN; split_ifs <;> rfl
@[simp] theorem State.setLEN_L (s : State) (n : BitVec 5) (x : Word32) : (s.setLEN n x).L = s.L := by
  unfold State.setLEN; split_ifs <;> rfl
@[simp] theorem State.setLEN_NBLK (s : State) (n : BitVec 5) (x : Word32) : (s.setLEN n x).NBLK = s.NBLK := by
  unfold State.setLEN; split_ifs <;> rfl
@[simp] theorem State.setLEN_BUSY (s : State) (n : BitVec 5) (x : Word32) : (s.setLEN n x).BUSY = s.BUSY := by
  unfold State.setLEN; split_ifs <;> rfl
@[simp] theorem State.setLEN_DONE (s : State) (n : BitVec 5) (x : Word32) : (s.setLEN n x).DONE = s.DONE := by
  unfold State.setLEN; split_ifs <;> rfl
@[simp] theorem State.setLEN_ERR (s : State) (n : BitVec 5) (x : Word32) : (s.setLEN n x).ERR = s.ERR := by
  unfold State.setLEN; split_ifs <;> rfl
@[simp] theorem State.setLEN_LEN0 (s : State) (n : BitVec 5) (x : Word32) :
    (s.setLEN n x).LEN0 = if n = 2#5 then x else s.LEN0 := by
  unfold State.setLEN; split_ifs <;> simp_all
@[simp] theorem State.setLEN_LEN1 (s : State) (n : BitVec 5) (x : Word32) :
    (s.setLEN n x).LEN1 = if n = 3#5 then x else s.LEN1 := by
  unfold State.setLEN; split_ifs <;> simp_all
@[simp] theorem State.setLEN_LEN2 (s : State) (n : BitVec 5) (x : Word32) :
    (s.setLEN n x).LEN2 = if n = 4#5 then x else s.LEN2 := by
  unfold State.setLEN; split_ifs <;> simp_all
@[simp] theorem State.setLEN_LEN3 (s : State) (n : BitVec 5) (x : Word32) :
    (s.setLEN n x).LEN3 = if n = 5#5 then x else s.LEN3 := by
  unfold State.setLEN; split_ifs <;> simp_all
@[simp] theorem State.setLEN_RST (s : State) (n : BitVec 5) (x : Word32) : (s.setLEN n x).RST = s.RST := by
  unfold State.setLEN; split_ifs <;> rfl
@[simp] theorem State.setLEN_MSG (s : State) (n : BitVec 5) (x : Word32) : (s.setLEN n x).MSG = s.MSG := by
  unfold State.setLEN; split_ifs <;> rfl
@[simp] theorem State.setLEN_turns (s : State) (n : BitVec 5) (x : Word32) : (s.setLEN n x).turns = s.turns := by
  unfold State.setLEN; split_ifs <;> rfl
@[simp] theorem State.setLEN_held (s : State) (n : BitVec 5) (x : Word32) : (s.setLEN n x).held = s.held := by
  unfold State.setLEN; split_ifs <;> rfl
@[simp] theorem State.setLEN_reads (s : State) (n : BitVec 5) (x : Word32) : (s.setLEN n x).reads = s.reads := by
  unfold State.setLEN; split_ifs <;> rfl
@[simp] theorem State.setLEN_msgReads (s : State) (n : BitVec 5) (x : Word32) : (s.setLEN n x).msgReads = s.msgReads := by
  unfold State.setLEN; split_ifs <;> rfl
@[simp] theorem State.setLEN_tick (s : State) (n : BitVec 5) (x : Word32) : (s.setLEN n x).tick = s.tick := by
  unfold State.setLEN; split_ifs <;> rfl

/-! ### `State.nextSched` -/

@[simp] theorem State.nextSched_H (s : State) (v : Variant) (t : BitVec 7) :
    (s.nextSched v t).H = s.H := by
  unfold State.nextSched; split_ifs <;> rfl
@[simp] theorem State.nextSched_V (s : State) (v : Variant) (t : BitVec 7) :
    (s.nextSched v t).V = s.V := by
  unfold State.nextSched; split_ifs <;> rfl
@[simp] theorem State.nextSched_W (s : State) (v : Variant) (t : BitVec 7) :
    (s.nextSched v t).W = s.W := by
  unfold State.nextSched; split_ifs <;> rfl
@[simp] theorem State.nextSched_M (s : State) (v : Variant) (t : BitVec 7) :
    (s.nextSched v t).M = s.M := by
  unfold State.nextSched; split_ifs <;> rfl
@[simp] theorem State.nextSched_PHASE (s : State) (v : Variant) (t : BitVec 7) :
    (s.nextSched v t).PHASE = if t.toNat + 1 = v.R then phaseLDV else phaseSCHED := by
  unfold State.nextSched; split_ifs <;> rfl
@[simp] theorem State.nextSched_BIDX (s : State) (v : Variant) (t : BitVec 7) :
    (s.nextSched v t).BIDX = s.BIDX := by
  unfold State.nextSched; split_ifs <;> rfl
@[simp] theorem State.nextSched_T (s : State) (v : Variant) (t : BitVec 7) :
    (s.nextSched v t).T = if t.toNat + 1 = v.R then 0#7 else t + 1#7 := by
  unfold State.nextSched; split_ifs <;> rfl
@[simp] theorem State.nextSched_VAR (s : State) (v : Variant) (t : BitVec 7) :
    (s.nextSched v t).VAR = s.VAR := by
  unfold State.nextSched; split_ifs <;> rfl
@[simp] theorem State.nextSched_L (s : State) (v : Variant) (t : BitVec 7) :
    (s.nextSched v t).L = s.L := by
  unfold State.nextSched; split_ifs <;> rfl
@[simp] theorem State.nextSched_NBLK (s : State) (v : Variant) (t : BitVec 7) :
    (s.nextSched v t).NBLK = s.NBLK := by
  unfold State.nextSched; split_ifs <;> rfl
@[simp] theorem State.nextSched_BUSY (s : State) (v : Variant) (t : BitVec 7) :
    (s.nextSched v t).BUSY = s.BUSY := by
  unfold State.nextSched; split_ifs <;> rfl
@[simp] theorem State.nextSched_DONE (s : State) (v : Variant) (t : BitVec 7) :
    (s.nextSched v t).DONE = s.DONE := by
  unfold State.nextSched; split_ifs <;> rfl
@[simp] theorem State.nextSched_ERR (s : State) (v : Variant) (t : BitVec 7) :
    (s.nextSched v t).ERR = s.ERR := by
  unfold State.nextSched; split_ifs <;> rfl
@[simp] theorem State.nextSched_LEN0 (s : State) (v : Variant) (t : BitVec 7) :
    (s.nextSched v t).LEN0 = s.LEN0 := by
  unfold State.nextSched; split_ifs <;> rfl
@[simp] theorem State.nextSched_LEN1 (s : State) (v : Variant) (t : BitVec 7) :
    (s.nextSched v t).LEN1 = s.LEN1 := by
  unfold State.nextSched; split_ifs <;> rfl
@[simp] theorem State.nextSched_LEN2 (s : State) (v : Variant) (t : BitVec 7) :
    (s.nextSched v t).LEN2 = s.LEN2 := by
  unfold State.nextSched; split_ifs <;> rfl
@[simp] theorem State.nextSched_LEN3 (s : State) (v : Variant) (t : BitVec 7) :
    (s.nextSched v t).LEN3 = s.LEN3 := by
  unfold State.nextSched; split_ifs <;> rfl
@[simp] theorem State.nextSched_RST (s : State) (v : Variant) (t : BitVec 7) :
    (s.nextSched v t).RST = s.RST := by
  unfold State.nextSched; split_ifs <;> rfl
@[simp] theorem State.nextSched_MSG (s : State) (v : Variant) (t : BitVec 7) :
    (s.nextSched v t).MSG = s.MSG := by
  unfold State.nextSched; split_ifs <;> rfl
@[simp] theorem State.nextSched_turns (s : State) (v : Variant) (t : BitVec 7) :
    (s.nextSched v t).turns = s.turns := by
  unfold State.nextSched; split_ifs <;> rfl
@[simp] theorem State.nextSched_held (s : State) (v : Variant) (t : BitVec 7) :
    (s.nextSched v t).held = s.held := by
  unfold State.nextSched; split_ifs <;> rfl
@[simp] theorem State.nextSched_reads (s : State) (v : Variant) (t : BitVec 7) :
    (s.nextSched v t).reads = s.reads := by
  unfold State.nextSched; split_ifs <;> rfl
@[simp] theorem State.nextSched_msgReads (s : State) (v : Variant) (t : BitVec 7) :
    (s.nextSched v t).msgReads = s.msgReads := by
  unfold State.nextSched; split_ifs <;> rfl
@[simp] theorem State.nextSched_tick (s : State) (v : Variant) (t : BitVec 7) :
    (s.nextSched v t).tick = s.tick := by
  unfold State.nextSched; split_ifs <;> rfl

/-! ### `State.nextRound` -/

@[simp] theorem State.nextRound_H (s : State) (v : Variant) (t : BitVec 7) :
    (s.nextRound v t).H = s.H := by
  unfold State.nextRound; split_ifs <;> rfl
@[simp] theorem State.nextRound_V (s : State) (v : Variant) (t : BitVec 7) :
    (s.nextRound v t).V = s.V := by
  unfold State.nextRound; split_ifs <;> rfl
@[simp] theorem State.nextRound_W (s : State) (v : Variant) (t : BitVec 7) :
    (s.nextRound v t).W = s.W := by
  unfold State.nextRound; split_ifs <;> rfl
@[simp] theorem State.nextRound_M (s : State) (v : Variant) (t : BitVec 7) :
    (s.nextRound v t).M = s.M := by
  unfold State.nextRound; split_ifs <;> rfl
@[simp] theorem State.nextRound_PHASE (s : State) (v : Variant) (t : BitVec 7) :
    (s.nextRound v t).PHASE = if t.toNat + 1 = v.R then phaseACC else phaseROUND := by
  unfold State.nextRound; split_ifs <;> rfl
@[simp] theorem State.nextRound_BIDX (s : State) (v : Variant) (t : BitVec 7) :
    (s.nextRound v t).BIDX = s.BIDX := by
  unfold State.nextRound; split_ifs <;> rfl
@[simp] theorem State.nextRound_T (s : State) (v : Variant) (t : BitVec 7) :
    (s.nextRound v t).T = if t.toNat + 1 = v.R then 0#7 else t + 1#7 := by
  unfold State.nextRound; split_ifs <;> rfl
@[simp] theorem State.nextRound_VAR (s : State) (v : Variant) (t : BitVec 7) :
    (s.nextRound v t).VAR = s.VAR := by
  unfold State.nextRound; split_ifs <;> rfl
@[simp] theorem State.nextRound_L (s : State) (v : Variant) (t : BitVec 7) :
    (s.nextRound v t).L = s.L := by
  unfold State.nextRound; split_ifs <;> rfl
@[simp] theorem State.nextRound_NBLK (s : State) (v : Variant) (t : BitVec 7) :
    (s.nextRound v t).NBLK = s.NBLK := by
  unfold State.nextRound; split_ifs <;> rfl
@[simp] theorem State.nextRound_BUSY (s : State) (v : Variant) (t : BitVec 7) :
    (s.nextRound v t).BUSY = s.BUSY := by
  unfold State.nextRound; split_ifs <;> rfl
@[simp] theorem State.nextRound_DONE (s : State) (v : Variant) (t : BitVec 7) :
    (s.nextRound v t).DONE = s.DONE := by
  unfold State.nextRound; split_ifs <;> rfl
@[simp] theorem State.nextRound_ERR (s : State) (v : Variant) (t : BitVec 7) :
    (s.nextRound v t).ERR = s.ERR := by
  unfold State.nextRound; split_ifs <;> rfl
@[simp] theorem State.nextRound_LEN0 (s : State) (v : Variant) (t : BitVec 7) :
    (s.nextRound v t).LEN0 = s.LEN0 := by
  unfold State.nextRound; split_ifs <;> rfl
@[simp] theorem State.nextRound_LEN1 (s : State) (v : Variant) (t : BitVec 7) :
    (s.nextRound v t).LEN1 = s.LEN1 := by
  unfold State.nextRound; split_ifs <;> rfl
@[simp] theorem State.nextRound_LEN2 (s : State) (v : Variant) (t : BitVec 7) :
    (s.nextRound v t).LEN2 = s.LEN2 := by
  unfold State.nextRound; split_ifs <;> rfl
@[simp] theorem State.nextRound_LEN3 (s : State) (v : Variant) (t : BitVec 7) :
    (s.nextRound v t).LEN3 = s.LEN3 := by
  unfold State.nextRound; split_ifs <;> rfl
@[simp] theorem State.nextRound_RST (s : State) (v : Variant) (t : BitVec 7) :
    (s.nextRound v t).RST = s.RST := by
  unfold State.nextRound; split_ifs <;> rfl
@[simp] theorem State.nextRound_MSG (s : State) (v : Variant) (t : BitVec 7) :
    (s.nextRound v t).MSG = s.MSG := by
  unfold State.nextRound; split_ifs <;> rfl
@[simp] theorem State.nextRound_turns (s : State) (v : Variant) (t : BitVec 7) :
    (s.nextRound v t).turns = s.turns := by
  unfold State.nextRound; split_ifs <;> rfl
@[simp] theorem State.nextRound_held (s : State) (v : Variant) (t : BitVec 7) :
    (s.nextRound v t).held = s.held := by
  unfold State.nextRound; split_ifs <;> rfl
@[simp] theorem State.nextRound_reads (s : State) (v : Variant) (t : BitVec 7) :
    (s.nextRound v t).reads = s.reads := by
  unfold State.nextRound; split_ifs <;> rfl
@[simp] theorem State.nextRound_msgReads (s : State) (v : Variant) (t : BitVec 7) :
    (s.nextRound v t).msgReads = s.msgReads := by
  unfold State.nextRound; split_ifs <;> rfl
@[simp] theorem State.nextRound_tick (s : State) (v : Variant) (t : BitVec 7) :
    (s.nextRound v t).tick = s.tick := by
  unfold State.nextRound; split_ifs <;> rfl

/-! ### `State.afterReset` (R270, R271) -/

@[simp] theorem State.afterReset_H (s : State) : s.afterReset.H = State.reset.H := rfl
@[simp] theorem State.afterReset_V (s : State) : s.afterReset.V = State.reset.V := rfl
@[simp] theorem State.afterReset_W (s : State) : s.afterReset.W = State.reset.W := rfl
@[simp] theorem State.afterReset_M (s : State) : s.afterReset.M = State.reset.M := rfl
@[simp] theorem State.afterReset_PHASE (s : State) : s.afterReset.PHASE = State.reset.PHASE := rfl
@[simp] theorem State.afterReset_BIDX (s : State) : s.afterReset.BIDX = State.reset.BIDX := rfl
@[simp] theorem State.afterReset_T (s : State) : s.afterReset.T = State.reset.T := rfl
@[simp] theorem State.afterReset_VAR (s : State) : s.afterReset.VAR = State.reset.VAR := rfl
@[simp] theorem State.afterReset_L (s : State) : s.afterReset.L = State.reset.L := rfl
@[simp] theorem State.afterReset_NBLK (s : State) : s.afterReset.NBLK = State.reset.NBLK := rfl
@[simp] theorem State.afterReset_BUSY (s : State) : s.afterReset.BUSY = State.reset.BUSY := rfl
@[simp] theorem State.afterReset_DONE (s : State) : s.afterReset.DONE = State.reset.DONE := rfl
@[simp] theorem State.afterReset_ERR (s : State) : s.afterReset.ERR = State.reset.ERR := rfl
@[simp] theorem State.afterReset_LEN0 (s : State) : s.afterReset.LEN0 = State.reset.LEN0 := rfl
@[simp] theorem State.afterReset_LEN1 (s : State) : s.afterReset.LEN1 = State.reset.LEN1 := rfl
@[simp] theorem State.afterReset_LEN2 (s : State) : s.afterReset.LEN2 = State.reset.LEN2 := rfl
@[simp] theorem State.afterReset_LEN3 (s : State) : s.afterReset.LEN3 = State.reset.LEN3 := rfl
@[simp] theorem State.afterReset_RST (s : State) : s.afterReset.RST = State.reset.RST := rfl
@[simp] theorem State.afterReset_MSG (s : State) : s.afterReset.MSG = s.MSG := rfl
@[simp] theorem State.afterReset_turns (s : State) : s.afterReset.turns = s.turns := rfl
@[simp] theorem State.afterReset_held (s : State) : s.afterReset.held = State.reset.held := rfl
@[simp] theorem State.afterReset_reads (s : State) : s.afterReset.reads = s.reads := rfl
@[simp] theorem State.afterReset_msgReads (s : State) : s.afterReset.msgReads = s.msgReads := rfl
@[simp] theorem State.afterReset_tick (s : State) : s.afterReset.tick = s.tick := rfl

/-! ### `State.engineTurnTaken` -/

@[simp] theorem State.engineTurnTaken_H (s : State) : s.engineTurnTaken.H = s.H := by
  unfold State.engineTurnTaken; split <;> rfl
@[simp] theorem State.engineTurnTaken_V (s : State) : s.engineTurnTaken.V = s.V := by
  unfold State.engineTurnTaken; split <;> rfl
@[simp] theorem State.engineTurnTaken_W (s : State) : s.engineTurnTaken.W = s.W := by
  unfold State.engineTurnTaken; split <;> rfl
@[simp] theorem State.engineTurnTaken_M (s : State) : s.engineTurnTaken.M = s.M := by
  unfold State.engineTurnTaken; split <;> rfl
@[simp] theorem State.engineTurnTaken_PHASE (s : State) : s.engineTurnTaken.PHASE = s.PHASE := by
  unfold State.engineTurnTaken; split <;> rfl
@[simp] theorem State.engineTurnTaken_BIDX (s : State) : s.engineTurnTaken.BIDX = s.BIDX := by
  unfold State.engineTurnTaken; split <;> rfl
@[simp] theorem State.engineTurnTaken_T (s : State) : s.engineTurnTaken.T = s.T := by
  unfold State.engineTurnTaken; split <;> rfl
@[simp] theorem State.engineTurnTaken_VAR (s : State) : s.engineTurnTaken.VAR = s.VAR := by
  unfold State.engineTurnTaken; split <;> rfl
@[simp] theorem State.engineTurnTaken_L (s : State) : s.engineTurnTaken.L = s.L := by
  unfold State.engineTurnTaken; split <;> rfl
@[simp] theorem State.engineTurnTaken_NBLK (s : State) : s.engineTurnTaken.NBLK = s.NBLK := by
  unfold State.engineTurnTaken; split <;> rfl
@[simp] theorem State.engineTurnTaken_BUSY (s : State) : s.engineTurnTaken.BUSY = s.BUSY := by
  unfold State.engineTurnTaken; split <;> rfl
@[simp] theorem State.engineTurnTaken_DONE (s : State) : s.engineTurnTaken.DONE = s.DONE := by
  unfold State.engineTurnTaken; split <;> rfl
@[simp] theorem State.engineTurnTaken_ERR (s : State) : s.engineTurnTaken.ERR = s.ERR := by
  unfold State.engineTurnTaken; split <;> rfl
@[simp] theorem State.engineTurnTaken_LEN0 (s : State) : s.engineTurnTaken.LEN0 = s.LEN0 := by
  unfold State.engineTurnTaken; split <;> rfl
@[simp] theorem State.engineTurnTaken_LEN1 (s : State) : s.engineTurnTaken.LEN1 = s.LEN1 := by
  unfold State.engineTurnTaken; split <;> rfl
@[simp] theorem State.engineTurnTaken_LEN2 (s : State) : s.engineTurnTaken.LEN2 = s.LEN2 := by
  unfold State.engineTurnTaken; split <;> rfl
@[simp] theorem State.engineTurnTaken_LEN3 (s : State) : s.engineTurnTaken.LEN3 = s.LEN3 := by
  unfold State.engineTurnTaken; split <;> rfl
@[simp] theorem State.engineTurnTaken_RST (s : State) : s.engineTurnTaken.RST = s.RST := by
  unfold State.engineTurnTaken; split <;> rfl
@[simp] theorem State.engineTurnTaken_MSG (s : State) : s.engineTurnTaken.MSG = s.MSG := by
  unfold State.engineTurnTaken; split <;> rfl
theorem State.engineTurnTaken_turns (s : State) :
    s.engineTurnTaken.turns = s.turns ∨ Turn.engine :: s.engineTurnTaken.turns = s.turns := by
  unfold State.engineTurnTaken; split <;> simp_all
@[simp] theorem State.engineTurnTaken_held (s : State) : s.engineTurnTaken.held = s.held := by
  unfold State.engineTurnTaken; split <;> rfl
@[simp] theorem State.engineTurnTaken_reads (s : State) : s.engineTurnTaken.reads = s.reads := by
  unfold State.engineTurnTaken; split <;> rfl
@[simp] theorem State.engineTurnTaken_msgReads (s : State) : s.engineTurnTaken.msgReads = s.msgReads := by
  unfold State.engineTurnTaken; split <;> rfl
@[simp] theorem State.engineTurnTaken_tick (s : State) : s.engineTurnTaken.tick = s.tick := by
  unfold State.engineTurnTaken; split <;> rfl

end Sys2Proof.Machine
end

