-- ==== Sys2Proof/Laws/Files.lean ====
section
/-! SUPPORT. Reading a file of elements after it was rewritten: one lemma per file operation. -/

namespace Sys2Proof.Machine

open Sys2Proof

theorem mapFrom_getElem? {α : Type} (f : Nat → α → α) (k : Nat) (xs : List α) (i : Nat) :
    (mapFrom f k xs)[i]? = xs[i]?.map (f (k + i)) := by
  induction xs generalizing k i with
  | nil => rfl
  | cons x xs ih =>
    cases i with
    | zero => rfl
    | succ i =>
      simp only [mapFrom, List.getElem?_cons_succ, ih]
      congr 2
      omega

@[simp] theorem fileMap_getElem? {α : Type} {n : Nat} (f : Nat → α → α) (xs : Vector α n) (i : Nat) :
    (fileMap f xs)[i]? = xs[i]?.map (f i) := by
  obtain ⟨⟨xs⟩, rfl⟩ := xs
  simpa [fileMap] using mapFrom_getElem? f 0 xs i

@[simp] theorem fileSet_getElem? {α : Type} {n : Nat} (xs : Vector α n) (k : Nat) (x : α) (i : Nat) :
    (fileSet xs k x)[i]? = if i = k ∧ i < n then some x else xs[i]? := by
  unfold fileSet
  rw [Vector.getElem?_setIfInBounds]
  split_ifs <;> first | rfl | omega | simp_all

@[simp] theorem uniformFile_getElem? {α : Type} (n : Nat) (x : α) (i : Nat) :
    (uniformFile n x)[i]? = if i < n then some x else none := by
  simp [uniformFile, Vector.getElem?_replicate]

theorem elemAt_fileMap {n : Nat} (f : Nat → Elem → Elem) (xs : Vector Elem n) {i : Nat} (h : i < n) :
    elemAt (fileMap f xs) i = f i (elemAt xs i) := by
  unfold elemAt
  rw [fileMap_getElem?, Vector.getElem?_eq_getElem h]
  rfl

theorem elemAt_out {n : Nat} (xs : Vector Elem n) {i : Nat} (h : n ≤ i) : elemAt xs i = .invalid := by
  simp [elemAt, h]

theorem elemAt_fileSet {n : Nat} (xs : Vector Elem n) {k : Nat} (x : Elem) (i : Nat) (hk : k < n) :
    elemAt (fileSet xs k x) i = if i = k then x else elemAt xs i := by
  unfold elemAt
  rw [fileSet_getElem?]
  split_ifs <;> first | rfl | simp_all

@[simp] theorem elemAt_uniformFile (n i : Nat) : elemAt (uniformFile n .invalid) i = .invalid := by
  unfold elemAt
  rw [uniformFile_getElem?]
  split <;> rfl

theorem byteAt_fileMap {n : Nat} (f : Nat → Option Byte → Option Byte) (xs : Vector (Option Byte) n) {i : Nat} (h : i < n) :
    byteAt (fileMap f xs) i = f i (byteAt xs i) := by
  unfold byteAt
  rw [fileMap_getElem?, Vector.getElem?_eq_getElem h]
  rfl

theorem byteAt_out {n : Nat} (xs : Vector (Option Byte) n) {i : Nat} (h : n ≤ i) : byteAt xs i = none := by
  simp [byteAt, h]

theorem elemAt_overwrite {n : Nat} (es : List Elem) (xs : Vector Elem n) {i : Nat} (h : i < n) :
    elemAt (overwrite es xs) i = es.getD i (elemAt xs i) := elemAt_fileMap _ xs h

/-- Two files with the same elements are the same file. -/
theorem file_ext {n : Nat} {xs ys : Vector Elem n} (h : ∀ i, i < n → elemAt xs i = elemAt ys i) : xs = ys := by
  ext i hi
  simpa [elemAt, hi] using h i hi

/-! ### The elements after each rewriting of a file -/

theorem elemAt_loadIV (v : Variant) (h : Vector Elem 8) {i : Nat} (hi : i < 8) :
    elemAt (loadIV v h) i = if i < v.NV then (ivElems v).getD i .invalid else elemAt h i := elemAt_fileMap _ h hi

theorem elemAt_loadV (v : Variant) (s : State) {i : Nat} (hi : i < 8) :
    elemAt (loadV v s) i =
      if i < v.NV then (if v.isFam64 then .w64 (s.h64 i) else .w32 (s.h32 i)) else elemAt s.V i := elemAt_fileMap _ s.V hi

theorem elemAt_accumulate (v : Variant) (s : State) {i : Nat} (hi : i < 8) :
    elemAt (accumulate v s) i =
      if i < v.NV then (if v.isFam64 then .w64 (s.h64 i + s.v64 i) else .w32 (s.h32 i + s.v32 i)) else elemAt s.H i :=
  elemAt_fileMap _ s.H hi

theorem byteAt_padBlock (v : Variant) (s : State) {i : Nat} (hi : i < 128) :
    byteAt (padBlock v s) i = if i < v.B then some (padByte v s (s.BIDX.toNat * v.B + i)) else byteAt s.M i :=
  byteAt_fileMap _ s.M hi

theorem Elem.to32_holds {v : Variant} {e : Elem} (h : e.holds v = true) (hv : v.isFam64 = false) (free : Word64) :
    e = .w32 (e.to32 free) := by
  cases e <;> simp_all [Elem.holds, Elem.to32]

theorem Elem.to64_holds {v : Variant} {e : Elem} (h : e.holds v = true) (hv : v.isFam64 = true) (free : Word64) :
    e = .w64 (e.to64 free) := by
  cases e <;> simp_all [Elem.holds, Elem.to64, Variant.isFam32]

end Sys2Proof.Machine
end

