-- ==== Sys2Proof/Laws/Exec.lean ====
section
/-! SUPPORT. What exec answers, arm by arm, and what the shared operations of the meanings can answer. -/

namespace Sys2Proof.Machine

open Sys2Proof Host

/-! ### Arms -/

@[simp] theorem exec_digest (v : Variant) (s : State) : exec (digestInstr v) s = digestCommand v s := by
  cases v <;> rfl

theorem exec_padblk (v : Variant) (s : State) : exec (.padblk v) s = execPadblk v s := rfl

theorem exec_wld32 (v : Variant) (t : BitVec 7) (s : State) :
    exec (.wld32 v t) s = .next (s.writeSched v t (.w32 (s.rawWord32 t.toNat))) := rfl

theorem exec_wld64 (v : Variant) (t : BitVec 7) (s : State) :
    exec (.wld64 v t) s = .next (s.writeSched v t (.w64 (s.rawWord64 t.toNat))) := rfl

theorem exec_wexpSha1 (t : BitVec 7) (s : State) :
    exec (.wexpSha1 t) s = .next (s.writeSched .sha1 t (.w32 (s.expandSha1 t.toNat))) := rfl

theorem exec_wexpS256 (v : Variant) (t : BitVec 7) (s : State) :
    exec (.wexpS256 v t) s = .next (s.writeSched v t (.w32 (s.expandS256 t.toNat))) := rfl

theorem exec_wexpS512 (v : Variant) (t : BitVec 7) (s : State) :
    exec (.wexpS512 v t) s = .next (s.writeSched v t (.w64 (s.expandS512 t.toNat))) := rfl

theorem exec_ldv (v : Variant) (s : State) : exec (.ldv v) s = execLdv v s := rfl

theorem exec_rndSha1Ch (t : BitVec 7) (s : State) : exec (.rndSha1Ch t) s = .next (s.roundSha1 ch 0 t) := rfl

theorem exec_rndSha1Par1 (t : BitVec 7) (s : State) : exec (.rndSha1Par1 t) s = .next (s.roundSha1 parity 1 t) := rfl

theorem exec_rndSha1Maj (t : BitVec 7) (s : State) : exec (.rndSha1Maj t) s = .next (s.roundSha1 maj 2 t) := rfl

theorem exec_rndSha1Par2 (t : BitVec 7) (s : State) : exec (.rndSha1Par2 t) s = .next (s.roundSha1 parity 3 t) := rfl

theorem exec_rndS256 (v : Variant) (t : BitVec 7) (s : State) : exec (.rndS256 v t) s = execRndS256 v t s := rfl

theorem exec_rndS512 (v : Variant) (t : BitVec 7) (s : State) : exec (.rndS512 v t) s = execRndS512 v t s := rfl

theorem exec_acc (v : Variant) (s : State) : exec (.acc v) s = execAcc v s := rfl

/-- Every command is the command of its variant. -/
theorem digestInstr_of_not_micro {i : Instr} (h : i.isMicroOp = false) : ∃ v, i = digestInstr v := by
  cases i
  case digestSha1 => exact ⟨.sha1, rfl⟩
  case digestSha224 => exact ⟨.sha224, rfl⟩
  case digestSha256 => exact ⟨.sha256, rfl⟩
  case digestSha384 => exact ⟨.sha384, rfl⟩
  case digestSha512 => exact ⟨.sha512, rfl⟩
  all_goals simp [Instr.isMicroOp] at h

/-! ### Shared operations -/

/-- Everything a `DIGEST` command can do when it answers a next state (R245). -/
theorem digestCommand_next {v : Variant} {s t : State} (h : digestCommand v s = .next t) :
    (s.BUSY = true ∧ t = s.setHeld (some (commandWord v))) ∨
    (s.BUSY = false ∧ v.LMAX < s.bitLength.toNat ∧ t = (s.accept v).raiseLengthOverflow) ∨
    (s.BUSY = false ∧ s.bitLength.toNat ≤ v.LMAX ∧ s.bitLength.toNat % 8 = 0 ∧ t = (s.accept v).start v) := by
  unfold digestCommand lengthOverflows at h
  split at h
  · exact .inl ⟨‹_›, by simpa using h.symm⟩
  · rename_i hb
    have hb : s.BUSY = false := by simpa using hb
    split at h
    · exact .inr (.inl ⟨hb, by simpa using ‹decide _ = true›, by simpa using h.symm⟩)
    · rename_i hl
      split at h
      · exact .inr (.inr ⟨hb, by simpa using hl, ‹_›, by simpa using h.symm⟩)
      · cases h

/-- Everything an `ACC` can do (R200). -/
theorem execAcc_next {v : Variant} {s t : State} (h : execAcc v s = .next t) :
    (s.BIDX.toNat + 1 = s.NBLK.toNat ∧ t = (s.setH (accumulate v s)).complete.setSEQ phaseIDLE 0#119 0#7) ∨
    (s.BIDX.toNat + 1 ≠ s.NBLK.toNat ∧ t = (s.setH (accumulate v s)).setSEQ phasePAD (s.BIDX + 1#119) 0#7) := by
  unfold execAcc at h
  split at h
  · exact .inl ⟨‹_›, by simpa using h.symm⟩
  · exact .inr ⟨‹_›, by simpa using h.symm⟩

/-- A micro-operation always answers a next state (R243). -/
theorem exec_micro_next {i : Instr} (h : i.isMicroOp = true) (s : State) : ∃ t, exec i s = .next t := by
  cases i
  case acc v =>
    by_cases hb : s.BIDX.toNat + 1 = s.NBLK.toNat <;> simp [exec_acc, execAcc, hb]
  all_goals first | exact ⟨_, rfl⟩ | simp [Instr.isMicroOp] at h

/-- `PB(i)` in the state's own terms (R133). -/
theorem padByte_eq (v : Variant) (s : State) (i : Nat) :
    padByte v s i =
      if i < s.NBLK.toNat * v.B then
        if i < s.L.toNat / 8 then Memory.read s.MSG i
        else if i = s.L.toNat / 8 then 0x80#8
        else if i < s.NBLK.toNat * v.B - v.LB then 0x00#8
        else beByte v.LB s.L (i - (s.NBLK.toNat * v.B - v.LB))
      else Config.freeByte s.tick (128 + i) := rfl

/-- The block count fits its register (R132: `NBLK <= 2^118 + 1`). -/
theorem blockCount_lt {v : Variant} {len : BitVec 128} (h : len.toNat ≤ v.LMAX) : blockCount v len < 2 ^ 119 := by
  unfold blockCount
  cases v <;> simp [Variant.LMAX, Variant.lfb, Variant.LB, Variant.B, Variant.isFam64] at * <;> omega

/-- The number of blocks a started invocation has (R117). -/
theorem start_NBLK {v : Variant} {s : State} (h : s.bitLength.toNat ≤ v.LMAX) :
    ((s.accept v).start v).NBLK.toNat = blockCount v s.bitLength := by
  simp only [State.accept, State.start, State.setSEQ_NBLK, State.startBusy_NBLK, State.setNBLK_NBLK, State.clearResult_L,
    State.latch_L, BitVec.toNat_ofNat]
  exact Nat.mod_eq_of_lt (blockCount_lt h)

/-- A word of the schedule after `W[t] <- e`. -/
theorem writeSched_W (s : State) (v : Variant) (t : BitVec 7) (e : Elem) (ht : t.toNat < 80) (i : Nat) :
    elemAt (s.writeSched v t e).W i = if i = t.toNat then e else elemAt s.W i := by
  simp only [State.writeSched, State.nextSched_W, State.setW_W]
  exact elemAt_fileSet _ e i ht

/-- What a schedule write leaves alone: everything but `W` and the position. -/
theorem writeSched_frame (s : State) (v : Variant) (t : BitVec 7) (e : Elem) :
    (s.writeSched v t e).H = s.H ∧ (s.writeSched v t e).V = s.V ∧ (s.writeSched v t e).M = s.M ∧
      s.KeepsRest (s.writeSched v t e) := by
  unfold State.writeSched
  refine ⟨?_, ?_, ?_, ⟨?_, ?_, ?_⟩, ⟨?_, ?_, ?_⟩, ⟨?_, ?_, ?_, ?_⟩, fun _ => ?_, ⟨?_, ?_, ?_, ?_, ?_⟩, ?_⟩ <;> simp

/-- What a round leaves alone: everything but `V` and the position. -/
theorem setV_nextRound_frame (s : State) (x : Vector Elem 8) (v : Variant) (t : BitVec 7) :
    ((s.setV x).nextRound v t).H = s.H ∧ ((s.setV x).nextRound v t).W = s.W ∧ ((s.setV x).nextRound v t).M = s.M ∧
      s.KeepsRest ((s.setV x).nextRound v t) := by
  refine ⟨?_, ?_, ?_, ⟨?_, ?_, ?_⟩, ⟨?_, ?_, ?_⟩, ⟨?_, ?_, ?_, ?_⟩, fun _ => ?_, ⟨?_, ?_, ?_, ?_, ?_⟩, ?_⟩ <;> simp

/-- The SHA-1 round writes `V[0..4]` (R180). -/
theorem roundSha1_V (s : State) (fn : Word32 → Word32 → Word32 → Word32) (j : Nat) (t : BitVec 7) :
    (s.roundSha1 fn j t).V = overwrite ((sha1Round fn (k1 j) (s.w32 t.toNat) s.work5).toList.map .w32) s.V := by
  simp [State.roundSha1]

/-- The spec's rotates are the library's (R8). -/
theorem rotl_eq_rotateLeft {w : Nat} (x : BitVec w) {n : Nat} (h : n < w) : rotl x n = x.rotateLeft n := by
  simp only [rotl, shl, shr, BitVec.rotateLeft_def]
  rw [Nat.mod_eq_of_lt h]

theorem rotr_eq_rotateRight {w : Nat} (x : BitVec w) {n : Nat} (h : n < w) : rotr x n = x.rotateRight n := by
  simp only [rotr, shl, shr, BitVec.rotateRight_def]
  rw [Nat.mod_eq_of_lt h]

/-- The round index does not wrap below the last index. -/
theorem index_succ {t : BitVec 7} (h : t.toNat < 80) : (t + 1#7).toNat = t.toNat + 1 := by bv_omega

end Sys2Proof.Machine
end

