-- ==== Sys2Proof/Laws/Memory.lean ====
section
/-! SUPPORT. The laws of the message space: read after write, and that a write keeps the canonical form. -/

namespace Sys2Proof.Machine

open Sys2Proof Host

@[simp] theorem Memory.read_nil (a : Nat) : Memory.read [] a = Memory.blank := rfl

theorem Memory.read_cons (k : Nat) (b : Byte) (rest : List Cell) (a : Nat) :
    Memory.read ((k, b) :: rest) a = if k = a then b else Memory.read rest a := rfl

theorem Memory.wfFrom_cons (lo k : Nat) (b : Byte) (rest : List Cell) :
    Memory.wfFrom lo ((k, b) :: rest) = true ↔
      lo ≤ k ∧ k < Memory.size ∧ b ≠ Memory.blank ∧ Memory.wfFrom (k + 1) rest = true := by
  simp [Memory.wfFrom, and_assoc]

theorem Memory.wfFrom_mono {lo lo' : Nat} {m : List Cell} (h : lo' ≤ lo) (hm : Memory.wfFrom lo m = true) :
    Memory.wfFrom lo' m = true := by
  cases m with
  | nil => rfl
  | cons c rest =>
    obtain ⟨k, b⟩ := c
    rw [Memory.wfFrom_cons] at hm ⊢
    exact ⟨by omega, hm.2⟩

/-- Below the least address a canonical list reads as blank. -/
theorem Memory.read_below {lo : Nat} {m : List Cell} (hm : Memory.wfFrom lo m = true) {a : Nat} (ha : a < lo) :
    Memory.read m a = Memory.blank := by
  induction m generalizing lo with
  | nil => rfl
  | cons c rest ih =>
    obtain ⟨k, b⟩ := c
    rw [Memory.wfFrom_cons] at hm
    rw [Memory.read_cons, if_neg (by omega)]
    exact ih hm.2.2.2 (by omega)

/-- Past the space a canonical list reads as blank. -/
theorem Memory.read_outside {lo : Nat} {m : List Cell} (hm : Memory.wfFrom lo m = true) {a : Nat} (ha : Memory.size ≤ a) :
    Memory.read m a = Memory.blank := by
  induction m generalizing lo with
  | nil => rfl
  | cons c rest ih =>
    obtain ⟨k, b⟩ := c
    rw [Memory.wfFrom_cons] at hm
    rw [Memory.read_cons, if_neg (by omega)]
    exact ih hm.2.2.2

theorem Memory.read_consCell {lo : Nat} {m : List Cell} (a : Nat) (b : Byte) (hm : Memory.wfFrom lo m = true) (ha : a < lo)
    (x : Nat) : Memory.read (Memory.cons a b m) x = if x = a then b else Memory.read m x := by
  unfold Memory.cons
  split
  · rename_i hb
    split
    · rename_i hx
      rw [hx, Memory.read_below hm ha, hb]
    · rfl
  · rw [Memory.read_cons]
    split <;> split <;> first | rfl | omega

theorem Memory.wfFrom_consCell {lo : Nat} {m : List Cell} {a : Nat} (b : Byte) (hlo : lo ≤ a) (ha : a < Memory.size)
    (hm : Memory.wfFrom (a + 1) m = true) : Memory.wfFrom lo (Memory.cons a b m) = true := by
  unfold Memory.cons
  split
  · exact Memory.wfFrom_mono (by omega) hm
  · rw [Memory.wfFrom_cons]
    exact ⟨hlo, ha, ‹_›, hm⟩

/-- A write keeps the canonical form. -/
theorem Memory.wfFrom_write {lo : Nat} {m : List Cell} {a : Nat} (b : Byte) (hm : Memory.wfFrom lo m = true) (hlo : lo ≤ a)
    (ha : a < Memory.size) : Memory.wfFrom lo (Memory.write m a b) = true := by
  induction m generalizing lo with
  | nil => exact Memory.wfFrom_consCell b hlo ha rfl
  | cons c rest ih =>
    obtain ⟨k, d⟩ := c
    rw [Memory.wfFrom_cons] at hm
    rw [Memory.write]
    split
    · refine Memory.wfFrom_consCell b hlo ha ?_
      rw [Memory.wfFrom_cons]
      exact ⟨by omega, hm.2⟩
    · split
      · refine Memory.wfFrom_consCell b hlo ha ?_
        subst a
        exact hm.2.2.2
      · rw [Memory.wfFrom_cons]
        exact ⟨hm.1, hm.2.1, hm.2.2.1, ih hm.2.2.2 (by omega)⟩

theorem Memory.wf_write {m : List Cell} {a : Nat} (b : Byte) (hm : Memory.wf m = true) (ha : a < Memory.size) :
    Memory.wf (Memory.write m a b) = true := Memory.wfFrom_write b hm (Nat.zero_le a) ha

/-- Read after write, in a canonical list. -/
theorem Memory.read_writeFrom {lo : Nat} {m : List Cell} (a : Nat) (b : Byte) (hm : Memory.wfFrom lo m = true) (x : Nat) :
    Memory.read (Memory.write m a b) x = if x = a then b else Memory.read m x := by
  induction m generalizing lo with
  | nil => exact Memory.read_consCell (lo := a + 1) a b rfl (by omega) x
  | cons c rest ih =>
    obtain ⟨k, d⟩ := c
    have hm' := hm
    rw [Memory.wfFrom_cons] at hm
    rw [Memory.write]
    split
    · refine Memory.read_consCell (lo := k) a b ?_ ‹_› x
      rw [Memory.wfFrom_cons]
      exact ⟨Nat.le_refl k, hm.2⟩
    · split
      · subst a
        rw [Memory.read_consCell k b hm.2.2.2 (by omega) x, Memory.read_cons]
        split <;> [rfl; rw [if_neg (by omega)]]
      · rw [Memory.read_cons, Memory.read_cons, ih hm.2.2.2]
        split <;> split <;> first | rfl | omega

theorem Memory.ext_from {lo : Nat} {m m' : List Cell} (hm : Memory.wfFrom lo m = true) (hm' : Memory.wfFrom lo m' = true)
    (h : ∀ a, Memory.read m a = Memory.read m' a) : m = m' := by
  induction m generalizing lo m' with
  | nil =>
    cases m' with
    | nil => rfl
    | cons c rest =>
      obtain ⟨k, b⟩ := c
      rw [Memory.wfFrom_cons] at hm'
      have hk := h k
      rw [Memory.read_nil, Memory.read_cons, if_pos rfl] at hk
      exact absurd hk.symm hm'.2.2.1
  | cons c rest ih =>
    obtain ⟨k, b⟩ := c
    rw [Memory.wfFrom_cons] at hm
    cases m' with
    | nil =>
      have hk := h k
      rw [Memory.read_nil, Memory.read_cons, if_pos rfl] at hk
      exact absurd hk hm.2.2.1
    | cons c' rest' =>
      obtain ⟨k', b'⟩ := c'
      rw [Memory.wfFrom_cons] at hm'
      have hk := h k
      have hk' := h k'
      simp only [Memory.read_cons, if_true] at hk hk'
      have hkk : k = k' := by
        rcases Nat.lt_trichotomy k k' with hlt | heq | hgt
        · rw [if_neg (by omega), Memory.read_below hm'.2.2.2 (by omega)] at hk
          exact absurd hk hm.2.2.1
        · exact heq
        · rw [if_neg (by omega), Memory.read_below hm.2.2.2 (by omega)] at hk'
          exact absurd hk'.symm hm'.2.2.1
      subst hkk
      have hb : b = b' := by simpa using hk
      subst hb
      have hrest : rest = rest' := by
        refine ih hm.2.2.2 hm'.2.2.2 fun a => ?_
        have ha := h a
        simp only [Memory.read_cons] at ha
        by_cases hka : k = a
        · subst hka
          rw [Memory.read_below hm.2.2.2 (by omega), Memory.read_below hm'.2.2.2 (by omega)]
        · simpa [hka] using ha
      rw [hrest]

/-- The canonical form is canonical: message spaces that read the same everywhere are the same data. -/
theorem Memory.ext {m m' : List Cell} (hm : Memory.wf m = true) (hm' : Memory.wf m' = true)
    (h : ∀ a, Memory.read m a = Memory.read m' a) : m = m' := Memory.ext_from hm hm' h

end Sys2Proof.Machine
end

