-- ==== Sys2Proof/Laws/Step.lean ====
section
/-! SUPPORT. What a step of the machine can do, said once. -/

namespace Sys2Proof.Machine

open Sys2Proof Host

theorem State.setTurns_self (s : State) : s.setTurns s.turns = s := rfl

theorem State.setHeld_self (s : State) : s.setHeld s.held = s := rfl

/-- Taking an engine turn changes the list of turns and nothing else. -/
theorem State.engineTurnTaken_eq (s : State) : ∃ ts, s.engineTurnTaken = s.setTurns ts := by
  unfold State.engineTurnTaken
  split
  · exact ⟨_, rfl⟩
  · exact ⟨s.turns, rfl⟩

theorem State.engineTurnTaken_alone {s : State} (h : s.turns = []) : s.engineTurnTaken = s := by
  simp [State.engineTurnTaken, h]

/-- Where a `CMD` write of `w` comes from, and the turns it leaves: a held write that is let through, or the host's turn. -/
def State.WritesCMD (s : State) (w : Word32) (ts : List Turn) : Prop :=
  (s.held = some w ∧ s.BUSY = false ∧ ts = s.turns) ∨ (s.held = none ∧ s.turns = .host (.write 0#5 w) :: ts)

/-- Why a step may leave all but the list of turns as it is although a turn was there: `rst` is released without being asserted;
or it is asserted, and the engine takes no step or a host write is not accepted (R270). -/
def State.TurnWithoutEffect (s : State) (ts : List Turn) : Prop :=
  (s.turns = .releaseRst :: ts ∧ s.RST = false) ∨
  (s.RST = true ∧ (s.engineTurnTaken = s.setTurns ts ∨ ∃ n x, s.turns = .host (.write n x) :: ts))

/-- Everything a step can do when it answers a next state. -/
inductive StepTo (s : State) : State → Prop where
  | assertRst (ts : List Turn) : s.turns = .assertRst :: ts → StepTo s (s.setTurns ts).assertReset
  | releaseRst (ts : List Turn) : s.turns = .releaseRst :: ts → s.RST = true → StepTo s (s.setTurns ts).afterReset
  | noEffect (ts : List Turn) : s.TurnWithoutEffect ts → StepTo s (s.setTurns ts)
  | readInReset (ts : List Turn) (n : BitVec 5) : s.RST = true → s.turns = .host (.read n) :: ts →
      StepTo s ((s.setTurns ts).logRead n ((s.setTurns ts).readInReset n)).nextTick
  | idle (ts : List Turn) : s.RST = false → s.PHASE = phaseIDLE → s.engineTurnTaken = s.setTurns ts → StepTo s (s.setTurns ts)
  | micro (ts : List Turn) (i : Instr) (t : State) : s.RST = false → s.PHASE ≠ phaseIDLE → decodeStepWord s.stepWord = .ok i →
      s.engineTurnTaken = s.setTurns ts → exec i (s.setTurns ts).nextTick = .next t → StepTo s t
  | command (ts : List Turn) (w : Word32) (v : Variant) (t : State) : s.RST = false → s.WritesCMD w ts →
      decodeCommand w = .ok (digestInstr v) → digestCommand v ((s.setTurns ts).setHeld none) = .next t → StepTo s t
  | discard (ts : List Turn) (w : Word32) (r : Reject) : s.RST = false → s.WritesCMD w ts → decodeCommand w = .error r →
      StepTo s ((s.setTurns ts).setHeld none)
  | len (ts : List Turn) (n : BitVec 5) (x : Word32) : s.RST = false → s.held = none → s.turns = .host (.write n x) :: ts →
      n ≠ 0#5 → StepTo s ((s.setTurns ts).setLEN n x)
  | read (ts : List Turn) (n : BitVec 5) : s.RST = false → s.held = none → s.turns = .host (.read n) :: ts →
      StepTo s ((s.setTurns ts).logRead n ((s.setTurns ts).hostRead n))
  | place (ts : List Turn) (a : BitVec 125) (b : Byte) : s.RST = true ∨ s.held = none → s.turns = .host (.place a b) :: ts →
      StepTo s ((s.setTurns ts).placeByte a b)

theorem digestInstr_of_decodeCommand {w : Word32} {i : Instr} (h : decodeCommand w = .ok i) : ∃ v, i = digestInstr v := by
  unfold decodeCommand at h
  split at h
  · split at h
    · exact ⟨_, by simpa using h.symm⟩
    · cases h
  · cases h

theorem engineTurn_cases {s t : State} (hr : s.RST = false) (h : engineTurn s.engineTurnTaken = .next t) : StepTo s t := by
  obtain ⟨ts, hs⟩ := s.engineTurnTaken_eq
  rw [hs] at h
  unfold engineTurn at h
  split at h
  · cases h
    exact .idle ts hr ‹_› hs
  · split at h
    · exact .micro ts _ t hr ‹_› ‹_› hs h
    · cases h

theorem writeCMD_cases {s t : State} {w : Word32} {ts : List Turn} (hr : s.RST = false) (hw : s.WritesCMD w ts)
    (h : writeCMD w ((s.setTurns ts).setHeld none) = .next t) : StepTo s t := by
  unfold writeCMD at h
  split at h
  · rename_i i hi
    obtain ⟨v, rfl⟩ := digestInstr_of_decodeCommand hi
    rw [exec_digest] at h
    exact .command ts w v t hr hw hi h
  · cases h
    exact .discard ts w _ hr hw ‹_›

theorem freeTurn_cases {s t : State} (hr : s.RST = false) (hn : s.held = none) (h : freeTurn s = .next t) : StepTo s t := by
  unfold freeTurn at h
  split at h
  · rename_i a rest hts
    cases a with
    | read n =>
      cases h
      exact .read rest n hr hn hts
    | write n x =>
      simp only [hostAccess, hostWrite] at h
      split at h
      · rename_i hn0
        have hs : (s.setTurns rest).setHeld none = s.setTurns rest := by
          rw [← hn]
          rfl
        rw [← hs] at h
        exact writeCMD_cases hr (.inr ⟨hn, by rw [hts, hn0]⟩) h
      · cases h
        exact .len rest n x hr hn hts ‹_›
    | place a b =>
      cases h
      exact .place rest a b (.inr hn) hts
  · exact engineTurn_cases hr h

theorem rstTurn_cases {s : State} (h : s.rstNext = true) : StepTo s (rstTurn s) := by
  unfold State.rstNext at h
  unfold rstTurn
  split at h
  · rename_i ts hts
    exact .assertRst ts hts
  · rename_i ts hts
    cases hr : s.RST with
    | true => exact .releaseRst ts hts hr
    | false => exact .noEffect ts (.inl ⟨hts, hr⟩)
  · cases h

theorem resetTurn_cases {s : State} (hr : s.RST = true) : StepTo s (resetTurn s) := by
  unfold resetTurn
  split
  · rename_i a rest hts
    cases a with
    | read n => exact .readInReset rest n hr hts
    | write n x => exact .noEffect rest (.inr ⟨hr, .inr ⟨n, x, hts⟩⟩)
    | place a b => exact .place rest a b (.inl hr) hts
  · obtain ⟨ts, hs⟩ := s.engineTurnTaken_eq
    rw [hs]
    exact .noEffect ts (.inr ⟨hr, .inl hs⟩)

theorem step_cases {s t : State} (h : step s = .next t) : StepTo s t := by
  unfold step takeTurn at h
  split at h
  · cases h
    exact rstTurn_cases ‹_›
  · split at h
    · cases h
      exact resetTurn_cases ‹_›
    · have hr : s.RST = false := by simpa using ‹¬s.RST = true›
      split at h
      · rename_i w hw
        unfold heldTurn at h
        split at h
        · exact engineTurn_cases hr h
        · exact writeCMD_cases hr (.inl ⟨hw, by simpa using ‹¬s.BUSY = true›, rfl⟩) h
      · exact freeTurn_cases hr ‹_› h

/-- A host access that is next and not kept waiting is made. -/
theorem step_host {s : State} {a : Access} {ts : List Turn} (h : s.turns = .host a :: ts) (hh : s.held = none)
    (hr : s.RST = false) : step s = hostAccess a (s.setTurns ts) := by
  have hn : s.rstNext = false := by simp [State.rstNext, h]
  simp [step, takeTurn, hn, hr, hh, freeTurn, h]

/-- `rst` becomes asserted, whatever else is waiting. -/
theorem step_assertRst {s : State} {ts : List Turn} (h : s.turns = .assertRst :: ts) :
    step s = .next (s.setTurns ts).assertReset := by
  have hn : s.rstNext = true := by simp [State.rstNext, h]
  simp [step, takeTurn, hn, rstTurn, h]

/-- An asserted `rst` is released. -/
theorem step_releaseRst {s : State} {ts : List Turn} (h : s.turns = .releaseRst :: ts) (hr : s.RST = true) :
    step s = .next (s.setTurns ts).afterReset := by
  have hn : s.rstNext = true := by simp [State.rstNext, h]
  simp [step, takeTurn, hn, rstTurn, h, hr]

/-- While `rst` is asserted a host access that is next is made as R270 says. -/
theorem step_host_inReset {s : State} {a : Access} {ts : List Turn} (h : s.turns = .host a :: ts) (hr : s.RST = true) :
    step s = .next (accessInReset a (s.setTurns ts)) := by
  have hn : s.rstNext = false := by simp [State.rstNext, h]
  simp [step, takeTurn, hn, hr, resetTurn, h]

/-- While `rst` is asserted an engine turn is used up without a step. -/
theorem step_engine_inReset {s : State} (h : s.turns = [] ∨ ∃ ts, s.turns = .engine :: ts) (hr : s.RST = true) :
    step s = .next s.engineTurnTaken := by
  obtain h | ⟨ts, h⟩ := h <;>
  · have hn : s.rstNext = false := by simp [State.rstNext, h]
    simp [step, takeTurn, hn, hr, resetTurn, h]

/-- With only the engine to move, a step is the engine's turn, also while a `CMD` write is held and `BUSY = 1`. -/
theorem step_engine {s : State} (h : s.turns = []) (hh : s.held = none ∨ s.BUSY = true) (hr : s.RST = false) :
    step s = engineTurn s := by
  have hn : s.rstNext = false := by simp [State.rstNext, h]
  cases hw : s.held with
  | none => simp [step, takeTurn, hn, hr, hw, freeTurn, h, State.engineTurnTaken_alone h]
  | some w =>
    have hb : s.BUSY = true := hh.resolve_left (by simp [hw])
    simp [step, takeTurn, hn, hr, hw, heldTurn, hb, State.engineTurnTaken_alone h]

/-- The idle engine has no step: its turn leaves the state as it is (log 9). -/
theorem step_idle {s : State} (h : s.turns = []) (hh : s.held = none) (hr : s.RST = false) (hp : s.PHASE = phaseIDLE) :
    step s = .next s := by
  rw [step_engine h (.inl hh) hr, engineTurn, if_pos hp]

/-- Past the digest the output selector shows 0 (R203, R204). -/
theorem doutOf_past_digest {v : Variant} {s : State} {j : Nat} (h : v.doutCount ≤ j) : doutOf v s j = 0#32 := by
  have h64 : v.isFam64 = true → ¬j / 2 < v.NOUT := by
    intro hf
    simp only [Variant.doutCount, Variant.ww, hf, if_true] at h
    omega
  have h32 : ¬v.isFam64 = true → ¬j < v.NOUT := by
    intro hf
    simp only [Variant.doutCount, Variant.ww, if_neg hf] at h
    omega
  unfold doutOf
  split
  · rw [if_neg (h64 ‹_›)]
  · rw [if_neg (h32 ‹_›)]

/-- A `DOUT` register past the digest reads 0, whatever `DONE` is (R203, R204, U9). -/
theorem dout_past_digest {s : State} {j : Nat} (h : s.inDigest j = false) : s.dout j = 0#32 := by
  unfold State.inDigest at h
  unfold State.dout
  split at h
  · simp only [decide_eq_false_iff_not, Nat.not_lt] at h
    simp [doutOf_past_digest h]
  · cases h

/-- Every digest has at least as many `DOUT` registers as that of `VAR` code 0, the code after reset. -/
theorem doutCount_ge (v : Variant) : Variant.sha1.doutCount ≤ v.doutCount := by cases v <;> decide

/-- What a register reads as while `rst` is asserted: a bit it does not have set reads 0, but in a `DOUT` register of a digest that
was there. -/
theorem readInReset_and (s : State) (n : BitVec 5)
    (h : s.DONE = false ∨ n.toNat < 8 ∨ 23 < n.toNat ∨ s.inDigest (n.toNat - 8) = false) :
    ∃ m, s.readInReset n = s.hostRead n &&& m := by
  unfold State.readInReset
  split
  · rename_i hn
    refine ⟨0#32, ?_⟩
    rw [BitVec.and_zero, if_neg]
    simp only [Bool.and_eq_true, not_and, Bool.not_eq_true]
    intro hd
    rcases h with h | h | h | h
    · rw [h] at hd
      cases hd
    · omega
    · omega
    · exact h
  · exact ⟨_, rfl⟩

/-- A running core: one more step. -/
theorem core_run_succ {s t : State} (n : Nat) (h : step s = .next t) : core.run (n + 1) s = core.run n t := by
  have hc : core.step s = .next t := h
  simp only [Host.Core.run, hc]

end Sys2Proof.Machine
end

