-- ==== Sys2Proof/Laws/Invariant.lean ====
section
/-! SUPPORT. The invariant depends on the engine, the message space and the held command alone. -/

namespace Sys2Proof.Machine

open Sys2Proof Host

/-- Position, parameters, flags and datapath as before: the invariant is kept if `MSG` and the held command keep theirs. -/
theorem State.Inv.of_same {s t : State} (h : s.Inv) (hd : s.KeepsDatapath t) (hp : s.KeepsPosition t)
    (hq : s.KeepsParameters t) (hf : s.KeepsFlags t) (hm : Memory.wf t.MSG = true)
    (hh : ∀ w, t.held = some w → ∃ v, w = commandWord v) (hr : t.RST = true → t.held = none) : t.Inv := by
  obtain ⟨⟨a1, a2, a3, a4, a5, a6, a7, a8, a9, a10, a11⟩, ⟨b1, b2, b3, b4, b5, b6⟩, _, _, _⟩ := h
  refine ⟨⟨?_, ?_, ?_, ?_, ?_, ?_, ?_, ?_, ?_, ?_, ?_⟩, ⟨?_, ?_, ?_, ?_, ?_, ?_⟩, hm, hh, hr⟩ <;>
    simp only [State.variant?, hd.H, hd.V, hd.W, hd.M, hp.PHASE, hp.BIDX, hp.T, hq.VAR, hq.L, hq.NBLK, hf.BUSY, hf.DONE,
      hf.ERR] <;> assumption

/-- The turns to come are no part of the invariant. -/
theorem State.Inv.setTurns {s : State} (h : s.Inv) (ts : List Turn) : (s.setTurns ts).Inv :=
  h.of_same ⟨rfl, rfl, rfl, rfl⟩ ⟨rfl, rfl, rfl⟩ ⟨rfl, rfl, rfl⟩ ⟨rfl, rfl, rfl⟩ h.msg h.held h.dropped

/-- Nor is the free values' counter. -/
theorem State.Inv.nextTick {s : State} (h : s.Inv) : s.nextTick.Inv :=
  h.of_same ⟨rfl, rfl, rfl, rfl⟩ ⟨rfl, rfl, rfl⟩ ⟨rfl, rfl, rfl⟩ ⟨rfl, rfl, rfl⟩ h.msg h.held h.dropped

/-- A legal command word may be held while `rst` is released. -/
theorem State.Inv.hold {s : State} (h : s.Inv) (hr : s.RST = false) (v : Variant) : (s.setHeld (some (commandWord v))).Inv :=
  h.of_same ⟨rfl, rfl, rfl, rfl⟩ ⟨rfl, rfl, rfl⟩ ⟨rfl, rfl, rfl⟩ ⟨rfl, rfl, rfl⟩ h.msg
    (fun _ hw => ⟨v, (Option.some.inj hw).symm⟩) fun ht => by simp [hr] at ht

/-- Or none. -/
theorem State.Inv.release {s : State} (h : s.Inv) : (s.setHeld none).Inv :=
  h.of_same ⟨rfl, rfl, rfl, rfl⟩ ⟨rfl, rfl, rfl⟩ ⟨rfl, rfl, rfl⟩ ⟨rfl, rfl, rfl⟩ h.msg (fun _ hw => by cases hw)
    fun _ => rfl

/-- `rst` becomes asserted. -/
theorem State.Inv.assertReset {s : State} (h : s.Inv) : s.assertReset.Inv :=
  h.of_same ⟨rfl, rfl, rfl, rfl⟩ ⟨rfl, rfl, rfl⟩ ⟨rfl, rfl, rfl⟩ ⟨rfl, rfl, rfl⟩ h.msg (fun _ hw => by cases hw) fun _ => rfl

end Sys2Proof.Machine
end

