-- ==== Sys2Proof/Laws/PerInstr.lean ====
section
/-! SUPPORT. The statements made of every instruction, one lemma per constructor.

Family `WordKind`: a command's word is its variant's command word; a micro-operation's word is a step word whose phase is not
`IDLE` and whose variant code is one of the five (spec/30_encoding.md R92, R95, R96). -/

namespace Sys2Proof.Laws.WordKind

open Sys2Proof Machine

/-- The word of an instruction is of its format, with the fields every row of that format has. -/
def Statement (i : Instr) : Prop :=
  match encode i with
  | .command w => i.isMicroOp = false ∧ ∃ v, i = digestInstr v ∧ w = commandWord v
  | .stepWord w => i.isMicroOp = true ∧ stepPhase w ≠ phaseIDLE ∧ (Variant.ofCode (stepVar w)).isSome = true

theorem digestSha1 : Statement .digestSha1 := ⟨rfl, .sha1, rfl, rfl⟩
theorem digestSha224 : Statement .digestSha224 := ⟨rfl, .sha224, rfl, rfl⟩
theorem digestSha256 : Statement .digestSha256 := ⟨rfl, .sha256, rfl, rfl⟩
theorem digestSha384 : Statement .digestSha384 := ⟨rfl, .sha384, rfl, rfl⟩
theorem digestSha512 : Statement .digestSha512 := ⟨rfl, .sha512, rfl, rfl⟩

/-- The shared part: a packed step word with a variant's code and a phase other than `IDLE`. -/
theorem packed (v : Variant) (p : BitVec 3) (t : BitVec 7) (hp : p ≠ phaseIDLE) :
    stepPhase (packStepWord v.code p t) ≠ phaseIDLE ∧ (Variant.ofCode (stepVar (packStepWord v.code p t))).isSome = true := by
  simpa using hp

theorem padblk (v : Variant) : Statement (.padblk v) := ⟨rfl, packed v _ _ (by decide)⟩
theorem wld32 (v : Variant) (t : BitVec 7) : Statement (.wld32 v t) := ⟨rfl, packed v _ _ (by decide)⟩
theorem wld64 (v : Variant) (t : BitVec 7) : Statement (.wld64 v t) := ⟨rfl, packed v _ _ (by decide)⟩
theorem wexpSha1 (t : BitVec 7) : Statement (.wexpSha1 t) := ⟨rfl, packed .sha1 _ _ (by decide)⟩
theorem wexpS256 (v : Variant) (t : BitVec 7) : Statement (.wexpS256 v t) := ⟨rfl, packed v _ _ (by decide)⟩
theorem wexpS512 (v : Variant) (t : BitVec 7) : Statement (.wexpS512 v t) := ⟨rfl, packed v _ _ (by decide)⟩
theorem ldv (v : Variant) : Statement (.ldv v) := ⟨rfl, packed v _ _ (by decide)⟩
theorem rndSha1Ch (t : BitVec 7) : Statement (.rndSha1Ch t) := ⟨rfl, packed .sha1 _ _ (by decide)⟩
theorem rndSha1Par1 (t : BitVec 7) : Statement (.rndSha1Par1 t) := ⟨rfl, packed .sha1 _ _ (by decide)⟩
theorem rndSha1Maj (t : BitVec 7) : Statement (.rndSha1Maj t) := ⟨rfl, packed .sha1 _ _ (by decide)⟩
theorem rndSha1Par2 (t : BitVec 7) : Statement (.rndSha1Par2 t) := ⟨rfl, packed .sha1 _ _ (by decide)⟩
theorem rndS256 (v : Variant) (t : BitVec 7) : Statement (.rndS256 v t) := ⟨rfl, packed v _ _ (by decide)⟩
theorem rndS512 (v : Variant) (t : BitVec 7) : Statement (.rndS512 v t) := ⟨rfl, packed v _ _ (by decide)⟩
theorem acc (v : Variant) : Statement (.acc v) := ⟨rfl, packed v _ _ (by decide)⟩

end Sys2Proof.Laws.WordKind
end

