-- ==== Sys2Proof/Tests/Slice0.lean ====
section
/-! SUPPORT. The model's own tests. Expected words, values and statuses are those of the spec: encodings from 30_encoding.md
R91, R92, R95, R96; values from the check values of 42_schedule.md and 43_rounds.md and the tables of 95_test_vectors.md
section 2. The last part has one witness for each obligation with hypotheses. -/

namespace Sys2Proof.Tests

open Sys2Proof Machine Host

/-! ## Well-formedness: one ill-formed term for each check -/

theorem test_wf_wld32_variant : (Instr.wld32 .sha384 0#7).wf = false := by decide
theorem test_wf_wld32_index : (Instr.wld32 .sha1 16#7).wf = false := by decide
theorem test_wf_wld64_variant : (Instr.wld64 .sha256 0#7).wf = false := by decide
theorem test_wf_wld64_index : (Instr.wld64 .sha512 16#7).wf = false := by decide
theorem test_wf_wexpSha1_index : (Instr.wexpSha1 15#7).wf = false ∧ (Instr.wexpSha1 80#7).wf = false := by decide
theorem test_wf_wexpS256_variant : (Instr.wexpS256 .sha1 16#7).wf = false := by decide
theorem test_wf_wexpS256_index :
    (Instr.wexpS256 .sha256 15#7).wf = false ∧ (Instr.wexpS256 .sha224 64#7).wf = false := by decide
theorem test_wf_wexpS512_variant : (Instr.wexpS512 .sha224 16#7).wf = false := by decide
theorem test_wf_wexpS512_index :
    (Instr.wexpS512 .sha512 15#7).wf = false ∧ (Instr.wexpS512 .sha384 80#7).wf = false := by decide
theorem test_wf_rndSha1Ch_index : (Instr.rndSha1Ch 20#7).wf = false := by decide
theorem test_wf_rndSha1Par1_index : (Instr.rndSha1Par1 19#7).wf = false ∧ (Instr.rndSha1Par1 40#7).wf = false := by decide
theorem test_wf_rndSha1Maj_index : (Instr.rndSha1Maj 39#7).wf = false ∧ (Instr.rndSha1Maj 60#7).wf = false := by decide
theorem test_wf_rndSha1Par2_index : (Instr.rndSha1Par2 59#7).wf = false ∧ (Instr.rndSha1Par2 80#7).wf = false := by decide
theorem test_wf_rndS256_variant : (Instr.rndS256 .sha512 0#7).wf = false := by decide
theorem test_wf_rndS256_index : (Instr.rndS256 .sha256 64#7).wf = false := by decide
theorem test_wf_rndS512_variant : (Instr.rndS512 .sha1 0#7).wf = false := by decide
theorem test_wf_rndS512_index : (Instr.rndS512 .sha384 80#7).wf = false := by decide

/-! ## Decoding: every constructor's word, bit by bit

A command word is `ZERO ‖ OP ‖ Z3 ‖ VARF`, a step word `VAR ‖ PHASE ‖ T`; the fields stand between the underscores. -/

theorem test_decode_digestSha1 : decodeTableWord 32 0b000000000000000000000000_0001_0_000 = some .digestSha1 := by decide
theorem test_decode_digestSha224 : decodeTableWord 32 0b000000000000000000000000_0001_0_001 = some .digestSha224 := by decide
theorem test_decode_digestSha256 : decodeTableWord 32 0b000000000000000000000000_0001_0_010 = some .digestSha256 := by decide
theorem test_decode_digestSha384 : decodeTableWord 32 0b000000000000000000000000_0001_0_011 = some .digestSha384 := by decide
theorem test_decode_digestSha512 : decodeTableWord 32 0b000000000000000000000000_0001_0_100 = some .digestSha512 := by decide
theorem test_decode_padblk : decodeTableWord 16 0b010_001_0000000 = some (.padblk .sha256) := by decide
theorem test_decode_wld32 : decodeTableWord 16 0b001_010_0001111 = some (.wld32 .sha224 15#7) := by decide
theorem test_decode_wld64 : decodeTableWord 16 0b011_010_0000101 = some (.wld64 .sha384 5#7) := by decide
theorem test_decode_wexpSha1 : decodeTableWord 16 0b000_010_1001111 = some (.wexpSha1 79#7) := by decide
theorem test_decode_wexpS256 : decodeTableWord 16 0b010_010_0010000 = some (.wexpS256 .sha256 16#7) := by decide
theorem test_decode_wexpS512 : decodeTableWord 16 0b100_010_0010000 = some (.wexpS512 .sha512 16#7) := by decide
theorem test_decode_ldv : decodeTableWord 16 0b011_011_0000000 = some (.ldv .sha384) := by decide
theorem test_decode_rndSha1Ch : decodeTableWord 16 0b000_100_0010011 = some (.rndSha1Ch 19#7) := by decide
theorem test_decode_rndSha1Par1 : decodeTableWord 16 0b000_100_0010100 = some (.rndSha1Par1 20#7) := by decide
theorem test_decode_rndSha1Maj : decodeTableWord 16 0b000_100_0101000 = some (.rndSha1Maj 40#7) := by decide
theorem test_decode_rndSha1Par2 : decodeTableWord 16 0b000_100_0111100 = some (.rndSha1Par2 60#7) := by decide
theorem test_decode_rndS256 : decodeTableWord 16 0b001_100_0111111 = some (.rndS256 .sha224 63#7) := by decide
theorem test_decode_rndS512 : decodeTableWord 16 0b100_100_1001111 = some (.rndS512 .sha512 79#7) := by decide
theorem test_decode_acc : decodeTableWord 16 0b100_101_0000000 = some (.acc .sha512) := by decide

theorem test_encode_digestSha1 : encode .digestSha1 = .command 0b000000000000000000000000_0001_0_000 := by decide
theorem test_encode_digestSha224 : encode .digestSha224 = .command 0b000000000000000000000000_0001_0_001 := by decide
theorem test_encode_digestSha256 : encode .digestSha256 = .command 0b000000000000000000000000_0001_0_010 := by decide
theorem test_encode_digestSha384 : encode .digestSha384 = .command 0b000000000000000000000000_0001_0_011 := by decide
theorem test_encode_digestSha512 : encode .digestSha512 = .command 0b000000000000000000000000_0001_0_100 := by decide
theorem test_encode_padblk : encode (.padblk .sha256) = .stepWord 0b010_001_0000000 := by decide
theorem test_encode_wld32 : encode (.wld32 .sha224 15#7) = .stepWord 0b001_010_0001111 := by decide
theorem test_encode_wld64 : encode (.wld64 .sha384 5#7) = .stepWord 0b011_010_0000101 := by decide
theorem test_encode_wexpSha1 : encode (.wexpSha1 79#7) = .stepWord 0b000_010_1001111 := by decide
theorem test_encode_wexpS256 : encode (.wexpS256 .sha256 16#7) = .stepWord 0b010_010_0010000 := by decide
theorem test_encode_wexpS512 : encode (.wexpS512 .sha512 16#7) = .stepWord 0b100_010_0010000 := by decide
theorem test_encode_ldv : encode (.ldv .sha384) = .stepWord 0b011_011_0000000 := by decide
theorem test_encode_rndSha1Ch : encode (.rndSha1Ch 19#7) = .stepWord 0b000_100_0010011 := by decide
theorem test_encode_rndSha1Par1 : encode (.rndSha1Par1 20#7) = .stepWord 0b000_100_0010100 := by decide
theorem test_encode_rndSha1Maj : encode (.rndSha1Maj 40#7) = .stepWord 0b000_100_0101000 := by decide
theorem test_encode_rndSha1Par2 : encode (.rndSha1Par2 60#7) = .stepWord 0b000_100_0111100 := by decide
theorem test_encode_rndS256 : encode (.rndS256 .sha224 63#7) = .stepWord 0b001_100_0111111 := by decide
theorem test_encode_rndS512 : encode (.rndS512 .sha512 79#7) = .stepWord 0b100_100_1001111 := by decide
theorem test_encode_acc : encode (.acc .sha512) = .stepWord 0b100_101_0000000 := by decide

/-- The reserved command words of 95_test_vectors.md section 2.2. -/
theorem test_decode_reserved_commands :
    ([0x15, 0x17, 0x18, 0x1C, 0x00, 0x04, 0x20, 0x110, 0x80000010, 0xFFFFFFFF].map (decodeTableWord 32)) =
      List.replicate 10 none := by decide

/-- Step words outside the table (R97), and a bit above the thirteen of the step word. -/
theorem test_decode_step_words_outside :
    ([0x0000, 0x0081, 0x0150, 0x0250, 0x0940, 0x0A40, 0x0300, 0x0380, 0x1400, 0x1480, 0x2080].map (decodeTableWord 16)) =
      List.replicate 11 none := by decide

/-! ## Functions: the check values of 42_schedule.md and 43_rounds.md -/

theorem test_sigma0_256 : sigma0_256 0x00000001#32 = 0x02004000#32 ∧ sigma0_256 0xFFFFFFFF#32 = 0x1FFFFFFF#32 := by decide
theorem test_sigma1_256 : sigma1_256 0x80000000#32 = 0x00205000#32 ∧ sigma1_256 0xFFFFFFFF#32 = 0x003FFFFF#32 := by decide
theorem test_sigma0_512 : sigma0_512 1#64 = 0x8100000000000000#64 ∧
    sigma0_512 0xFFFFFFFFFFFFFFFF#64 = 0x01FFFFFFFFFFFFFF#64 := by decide
theorem test_sigma1_512 : sigma1_512 0x8000000000000000#64 = 0x0200100000000004#64 ∧
    sigma1_512 0xFFFFFFFFFFFFFFFF#64 = 0x03FFFFFFFFFFFFFF#64 := by decide
theorem test_bigSigma0_256 : bigSigma0_256 0x00000001#32 = 0x40080400#32 := by decide
theorem test_bigSigma1_256 : bigSigma1_256 0x80000000#32 = 0x02100040#32 := by decide
theorem test_bigSigma0_512 : bigSigma0_512 1#64 = 0x0000001042000000#64 := by decide
theorem test_bigSigma1_512 : bigSigma1_512 0x8000000000000000#64 = 0x0002200000400000#64 := by decide
theorem test_logical : ch 0xF0F0F0F0#32 0xAAAAAAAA#32 0x55555555#32 = 0xA5A5A5A5#32 ∧
    maj 0xF0F0F0F0#32 0xAAAAAAAA#32 0x55555555#32 = 0xF0F0F0F0#32 ∧
    parity 0xF0F0F0F0#32 0xAAAAAAAA#32 0x55555555#32 = 0x0F0F0F0F#32 := by decide

/-! ## States the tests start from -/

/-- Something of the next state, if there is one. -/
def after {α : Type} (o : Outcome State Fault Refusal) (f : State → α) : Option α :=
  match o with
  | .next t => some (f t)
  | .fault _ => none
  | .refused _ => none

/-- The bytes of "abc" placed from index 0 on. -/
def abcMSG : List Cell := [(0, 0x61#8), (1, 0x62#8), (2, 0x63#8)]

/-- After reset, a bit length in the length registers. -/
def withLength (l3 l2 l1 l0 : Word32) : State := { State.reset with LEN3 := l3, LEN2 := l2, LEN1 := l1, LEN0 := l0 }

/-- A variant running on "abc", at a position of its only block. -/
def running (v : Variant) (p : BitVec 3) (t : BitVec 7) : State :=
  { State.reset with VAR := v.code, PHASE := p, T := t, L := 24#128, NBLK := 1#119, BUSY := true, MSG := abcMSG }

/-- Elements in a file from index `k` on. -/
def putFrom {n : Nat} (k : Nat) (es : List Elem) (xs : Vector Elem n) : Vector Elem n :=
  fileMap (fun i e => if k ≤ i then es.getD (i - k) e else e) xs

/-- Elements of the 32-bit family. -/
def e32 (xs : List Word32) : List Elem := xs.map .w32

/-- Elements of the 64-bit family. -/
def e64 (xs : List Word64) : List Elem := xs.map .w64

/-- `V` and one schedule word given. -/
def inRound (v : Variant) (t : BitVec 7) (vs : List Elem) (x : Elem) : State :=
  ((running v phaseROUND t).setV (putFrom 0 vs State.reset.V)).setW (fileSet State.reset.W t.toNat x)

/-- A few schedule words given. -/
def inSchedule (v : Variant) (t : BitVec 7) (ws : List (Nat × Elem)) : State :=
  (running v phaseSCHED t).setW (ws.foldr (fun p w => fileSet w p.1 p.2) State.reset.W)

/-! ## Commands: the acceptance outcomes of 95_test_vectors.md section 2.2 -/

theorem test_digestSha1_starts : after (exec .digestSha1 (withLength 0 0 0 0)) (fun t => (t.status, t.NBLK, t.PHASE)) =
    some (0x01#32, 1#119, phasePAD) := by decide
theorem test_digestSha224_starts : after (exec .digestSha224 (withLength 0 0 0 0x18)) (fun t => (t.status, t.NBLK, t.PHASE)) =
    some (0x09#32, 1#119, phasePAD) := by decide
theorem test_digestSha256_starts :
    after (exec .digestSha256 (withLength 0 0 0xFFFFFFFF 0xFFFFFFF8)) (fun t => (t.status, t.NBLK, t.PHASE)) =
    some (0x11#32, 0x80000000000001#119, phasePAD) := by decide
theorem test_digestSha384_starts : after (exec .digestSha384 (withLength 0 1 0 0)) (fun t => (t.status, t.NBLK, t.PHASE)) =
    some (0x19#32, 0x40000000000001#119, phasePAD) := by decide
theorem test_digestSha512_starts :
    after (exec .digestSha512 (withLength 0xFFFFFFFF 0xFFFFFFFF 0xFFFFFFFF 0xFFFFFFF8)) (fun t => (t.status, t.NBLK, t.PHASE)) =
    some (0x21#32, 0x400000000000000000000000000001#119, phasePAD) := by decide
theorem test_digestSha1_overflow : after (exec .digestSha1 (withLength 1 0 0 0)) (fun t => (t.status, t.NBLK)) =
    some (0x04#32, 0#119) := by decide
theorem test_digestSha224_overflow : after (exec .digestSha224 (withLength 0 1 0 0)) (fun t => (t.status, t.NBLK)) =
    some (0x0C#32, 0#119) := by decide
theorem test_digestSha256_overflow :
    after (exec .digestSha256 (withLength 0xFFFFFFFF 0xFFFFFFFF 0xFFFFFFFF 0xFFFFFFFF)) (fun t => (t.status, t.NBLK)) =
    some (0x14#32, 0#119) := by decide
theorem test_digestSha512_unaligned :
    exec .digestSha512 (withLength 0xFFFFFFFF 0xFFFFFFFF 0xFFFFFFFF 0xFFFFFFFF) = .refused .unalignedLength := rfl
theorem test_digestSha384_iv : after (exec .digestSha384 State.reset) (fun t => (elemAt t.H 0, elemAt t.H 7)) =
    some (.w64 0xCBBB9D5DC1059ED8#64, .w64 0x47B5481DBEFA4FA4#64) := by decide

/-! ## Padding: 95_test_vectors.md section 2.3 -/

/-- SHA-256, "abc": `61 62 63 80`, 59 zero bytes, `18`; indices 0 to 2 are read. -/
theorem test_padblk_abc : after (exec (.padblk .sha256) (running .sha256 phasePAD 0#7))
    (fun t => ([0, 2, 3, 4, 62, 63, 64].map (byteAt t.M), t.msgReads)) =
    some ([some 0x61, some 0x63, some 0x80, some 0x00, some 0x00, some 0x18, none], [0, 1, 2]) := by decide +kernel

/-- SHA-512, 112 bytes, block 1 of 2: 126 zero bytes, `03 80`; no index is read. -/
theorem test_padblk_second_tail_block : after (exec (.padblk .sha512)
      { running .sha512 phasePAD 0#7 with L := 896#128, NBLK := 2#119, BIDX := 1#119 })
    (fun t => ([0, 125, 126, 127].map (byteAt t.M), t.msgReads)) =
    some ([some 0x00, some 0x00, some 0x03, some 0x80], []) := by decide +kernel

/-! ## Schedule: the schedules of "abc", 95_test_vectors.md section 2.4 -/

/-- The block buffer of "abc" in either family, as far as words 0 and 1 read it. -/
def abcBlock : Vector (Option Byte) 128 :=
  fileMap (fun i _ => some ([0x61#8, 0x62#8, 0x63#8, 0x80#8].getD i 0#8)) State.reset.M

theorem test_wld32 : after (exec (.wld32 .sha1 0#7) ((running .sha1 phaseSCHED 0#7).setM abcBlock))
    (fun t => (elemAt t.W 0, t.PHASE, t.T)) = some (.w32 0x61626380#32, phaseSCHED, 1#7) := by decide +kernel
theorem test_wld64 : after (exec (.wld64 .sha512 0#7) ((running .sha512 phaseSCHED 0#7).setM abcBlock))
    (fun t => elemAt t.W 0) = some (.w64 0x6162638000000000#64) := by decide +kernel
theorem test_wexpSha1 : after (exec (.wexpSha1 79#7) (inSchedule .sha1 79#7
      [(76, .w32 0xE6E60B69#32), (71, .w32 0x458546F4#32), (65, .w32 0x000F0000#32), (63, .w32 0x627B49A1#32)]))
    (fun t => (elemAt t.W 79, t.PHASE, t.T)) = some (.w32 0x822E0879#32, phaseLDV, 0#7) := by decide +kernel
theorem test_wexpS256 : after (exec (.wexpS256 .sha256 63#7) (inSchedule .sha256 63#7
      [(61, .w32 0x668B2FF8#32), (56, .w32 0xEF57B9CD#32), (48, .w32 0xFB3E89CB#32), (47, .w32 0x065C43DA#32)]))
    (fun t => (elemAt t.W 63, t.PHASE, t.T)) = some (.w32 0x12B1EDEB#32, phaseLDV, 0#7) := by decide +kernel
theorem test_wexpS512 : after (exec (.wexpS512 .sha384 79#7) (inSchedule .sha384 79#7
      [(77, .w64 0x464AF5671D71C12E#64), (72, .w64 0xF63D4265CC1C5A78#64), (64, .w64 0x5099C3ADD79F90EC#64),
        (63, .w64 0xCC4918B5949206BB#64)]))
    (fun t => (elemAt t.W 79, t.PHASE, t.T)) = some (.w64 0x92AEEED1A7BCF7D2#64, phaseLDV, 0#7) := by decide +kernel

/-! ## Rounds: the rounds of "abc", 95_test_vectors.md section 2.5 -/

theorem test_ldv : after (exec (.ldv .sha1) ((running .sha1 phaseLDV 0#7).setH (loadIV .sha1 State.reset.H)))
    (fun t => ([0, 4, 5].map (elemAt t.V), t.PHASE)) =
    some ([.w32 0x67452301#32, .w32 0xC3D2E1F0#32, .invalid], phaseROUND) := by decide +kernel

theorem test_rndSha1Ch : after (exec (.rndSha1Ch 0#7) (inRound .sha1 0#7
      (e32 [0x67452301#32, 0xEFCDAB89#32, 0x98BADCFE#32, 0x10325476#32, 0xC3D2E1F0#32]) (.w32 0x61626380#32)))
    (fun t => ((List.range 5).map (elemAt t.V), t.PHASE, t.T)) =
    some ((e32 [0x0116FC33#32, 0x67452301#32, 0x7BF36AE2#32, 0x98BADCFE#32, 0x10325476#32]),
      phaseROUND, 1#7) := by decide +kernel
theorem test_rndSha1Par1 : after (exec (.rndSha1Par1 20#7) (inRound .sha1 20#7
      (e32 [0xFD9E1D7D#32, 0xDC64901D#32, 0x20AA99CA#32, 0xD3A49608#32, 0xC82F758B#32]) (.w32 0x00000000#32)))
    (fun t => ((List.range 5).map (elemAt t.V), t.PHASE, t.T)) =
    some ((e32 [0x1A37B0CA#32, 0xFD9E1D7D#32, 0x77192407#32, 0x20AA99CA#32, 0xD3A49608#32]),
      phaseROUND, 21#7) := by decide +kernel
theorem test_rndSha1Maj : after (exec (.rndSha1Maj 50#7) (inRound .sha1 50#7
      (e32 [0x120731C5#32, 0xBAF39337#32, 0xAFAB40B2#32, 0x2806E11B#32, 0x8714787C#32]) (.w32 0x626383A1#32)))
    (fun t => ((List.range 5).map (elemAt t.V), t.PHASE, t.T)) =
    some ((e32 [0x641DB2CE#32, 0x120731C5#32, 0xEEBCE4CD#32, 0xAFAB40B2#32, 0x2806E11B#32]),
      phaseROUND, 51#7) := by decide +kernel
theorem test_rndSha1Par2 : after (exec (.rndSha1Par2 79#7) (inRound .sha1 79#7
      (e32 [0x5738D5E1#32, 0x860D21CC#32, 0x681E6DF6#32, 0xD8FDF6AD#32, 0xD7B9DA25#32]) (.w32 0x822E0879#32)))
    (fun t => ((List.range 5).map (elemAt t.V), t.PHASE, t.T)) =
    some ((e32 [0x42541B35#32, 0x5738D5E1#32, 0x21834873#32, 0x681E6DF6#32, 0xD8FDF6AD#32]),
      phaseACC, 0#7) := by decide +kernel
theorem test_rndS256 : after (exec (.rndS256 .sha256 63#7) (inRound .sha256 63#7
      (e32 [0xD39A2165#32, 0x04D24D6C#32, 0xB85E2CE9#32, 0xB6AE8FFF#32,
        0xFB121210#32, 0x948D25B6#32, 0x961F4894#32, 0xB21BAD3D#32])
      (.w32 0x12B1EDEB#32)))
    (fun t => ((List.range 8).map (elemAt t.V), t.PHASE, t.T)) =
    some ((e32 [0x506E3058#32, 0xD39A2165#32, 0x04D24D6C#32, 0xB85E2CE9#32,
        0x5EF50F24#32, 0xFB121210#32, 0x948D25B6#32, 0x961F4894#32]),
      phaseACC, 0#7) := by decide +kernel
theorem test_rndS512 : after (exec (.rndS512 .sha512 79#7) (inRound .sha512 79#7
      (e64 [0x10D9C4C4295599F6#64, 0xD67806DB8B148677#64, 0x654EF9ABEC389CA9#64, 0xC8960E6BE864B916#64,
        0x9BB4D39778C07F9E#64, 0x25C96A7768FB2AA3#64, 0xCEB9FC3691CE8326#64, 0x995019A6FF3BA3DE#64])
      (.w64 0x92AEEED1A7BCF7D2#64)))
    (fun t => ((List.range 8).map (elemAt t.V), t.PHASE, t.T)) =
    some ((e64 [0x73A54F399FA4B1B2#64, 0x10D9C4C4295599F6#64, 0xD67806DB8B148677#64, 0x654EF9ABEC389CA9#64,
        0xD08446AA79693ED7#64, 0x9BB4D39778C07F9E#64, 0x25C96A7768FB2AA3#64, 0xCEB9FC3691CE8326#64]),
      phaseACC, 0#7) := by decide +kernel

/-! ## Accumulation and digest: 95_test_vectors.md section 2.6 -/

/-- `H` and `V` of SHA-224 before the `ACC` of "abc". -/
def beforeAcc : State :=
  ((running .sha224 phaseACC 0#7).setH (loadIV .sha224 State.reset.H)).setV
    (putFrom 0 (e32 [0x6203DE4A#32, 0xFD89031B#32, 0x55D1C760#32, 0xC693FC7A#32,
        0x2AEDB1B3#32, 0x55489EE6#32, 0x7E730E00#32, 0x13DFB889#32])
      State.reset.V)

theorem test_acc : after (exec (.acc .sha224) beforeAcc)
    (fun t => ((List.range 8).map (elemAt t.H), t.PHASE, t.status, t.dout 6, t.dout 7)) =
    some ((e32 [0x23097D22#32, 0x3405D822#32, 0x8642A477#32, 0xBDA255B3#32,
        0x2AADBCE4#32, 0xBDA0B3F7#32, 0xE36C9DA7#32, 0xD2DA082D#32]),
      phaseIDLE, 0x0A#32, 0xE36C9DA7#32, 0#32) := by decide +kernel

/-- `ACC` of a block that is not the last goes on to the next block. -/
theorem test_acc_next_block : after (exec (.acc .sha224) (beforeAcc.setNBLK 2#119))
    (fun t => (t.PHASE, t.BIDX, t.BUSY, t.DONE)) = some (phasePAD, 1#119, true, false) := by decide +kernel

/-- SHA-512: the most significant half in the lower-numbered register; a `DOUT` past the digest reads 0. -/
theorem test_dout_64 :
    (let s := { State.reset with VAR := 4#3, DONE := true, H := uniformFile 8 (.w64 0xDDAF35A193617ABA#64) }
     (s.hostRead 8#5, s.hostRead 9#5, s.hostRead 23#5, s.hostRead 24#5)) =
    (0xDDAF35A1#32, 0x93617ABA#32, 0x93617ABA#32, 0#32) := by decide +kernel

/-! ## Host accesses and steps: 95_test_vectors.md sections 2.1 and 2.7 -/

/-- Two host turns: `HostWrite(2, 0xDEADBEE8)`, then `HostRead(2)`. -/
theorem test_len_write_then_read :
    after (core.run 2 (State.reset.setTurns [.host (.write 2#5 0xDEADBEE8#32), .host (.read 2#5)]))
      (fun t => (t.reads, t.L, t.turns)) = some ([(2#5, 0xDEADBEE8#32)], 0#128, []) := by decide +kernel

theorem test_ignored_write_then_read :
    after (core.run 2 (State.reset.setTurns [.host (.write 8#5 0xFFFFFFFF#32), .host (.read 8#5)])) (fun t => t.reads) =
      some [(8#5, 0#32)] := by decide +kernel

/-- The byte space keeps its canonical form: placing the blank byte removes the cell. -/
theorem test_place : Memory.write (Memory.write [] 5 0x61#8) 2 0x62#8 = [(2, 0x62#8), (5, 0x61#8)] ∧
    Memory.write [(2, 0x62#8), (5, 0x61#8)] 5 0x00#8 = [(2, 0x62#8)] := by decide

/-- A command word placed where the next step takes it from is that command. -/
theorem test_fetch_command : after (step (State.reset.withFetchWord 32 0x12)) (fun t => (t.status, t.turns)) =
    some (0x11#32, []) := by decide +kernel

/-- A step word placed where the next step takes it from is that micro-operation: `LDV` goes on to `ROUND` (R216). -/
theorem test_fetch_micro : after (step (State.reset.withFetchWord 16 0x0980)) (fun t => (t.PHASE, t.T, t.turns)) =
    some (phaseROUND, 0#7, []) := by decide +kernel

/-! ## Witnesses: concrete inputs that meet the hypotheses of each obligation that has any -/

/-- SHA-256 running on a message of 64 bytes, hence of two blocks, at any position: a state that meets the invariant. -/
def midRun (p : BitVec 3) (j : BitVec 119) (t : BitVec 7) : State :=
  { State.reset with
    VAR := 2#3, L := 512#128, NBLK := 2#119, BUSY := true, PHASE := p, BIDX := j, T := t,
    H := uniformFile 8 (.w32 1#32), V := uniformFile 8 (.w32 2#32), M := uniformFile 128 (some 0x61#8),
    W := fileMap (fun i _ => if p = phaseSCHED ∧ t.toNat ≤ i then .invalid else .w32 3#32) State.reset.W }

/-- R270, R271: while `rst` is asserted a write is not accepted and the engine takes no step; after the release every register
reads 0 and the write is not held. -/
theorem test_reset_interval :
    after (core.run 5 ((midRun phaseROUND 1#119 5#7).setTurns [.assertRst, .engine, .host (.write 2#5 8#32),
      .host (.write 0#5 0x12#32), .releaseRst])) (fun t => (t.PHASE, t.status, t.LEN0, t.held, t.RST)) =
      some (phaseIDLE, 0#32, 0#32, none, false) := by decide +kernel

theorem elemAt_uniform (n i : Nat) (e : Elem) (h : i < n) : elemAt (uniformFile n e) i = e := by
  unfold elemAt
  rw [uniformFile_getElem?, if_pos h]
  rfl

theorem byteAt_uniform (n i : Nat) (b : Option Byte) (h : i < n) : byteAt (uniformFile n b) i = b := by
  unfold byteAt
  rw [uniformFile_getElem?, if_pos h]
  rfl

theorem midRun_variant {p : BitVec 3} {j : BitVec 119} {t : BitVec 7} {v : Variant} (h : (midRun p j t).variant? = some v) :
    v = .sha256 := by
  have h' : some Variant.sha256 = some v := h
  exact (Option.some.inj h').symm

theorem midRun_W (p : BitVec 3) (j : BitVec 119) (t : BitVec 7) {i : Nat} (h : i < 80) :
    elemAt (midRun p j t).W i = if p = phaseSCHED ∧ t.toNat ≤ i then .invalid else .w32 3#32 := elemAt_fileMap _ _ h

theorem midRun_inv (p : BitVec 3) (j : BitVec 119) (t : BitVec 7) (hp : p ≠ phaseIDLE) (hp5 : p.toNat ≤ 5)
    (hj : j.toNat < 2) (ht : t.toNat < 64) (h0 : p = phasePAD ∨ p = phaseLDV ∨ p = phaseACC → t = 0#7) :
    (midRun p j t).Inv := by
  refine ⟨⟨show (2 : Nat) ≤ 4 by decide, hp5, ⟨fun _ => hp, fun _ => rfl⟩, ⟨by rintro ⟨_, ⟨⟩⟩, by rintro ⟨_, ⟨⟩⟩, by rintro ⟨⟨⟩, _⟩⟩,
    fun h => absurd h hp, ?_, h0, fun _ => hj, ?_, ?_, ?_⟩,
    ⟨?_, ?_, ?_, ?_, ?_, ?_⟩, rfl, fun _ h => (by cases h), fun _ => rfl⟩
  · intro v hv
    rw [midRun_variant hv]
    exact ht
  · intro v hv _
    rw [midRun_variant hv]
    exact ⟨show (512 : Nat) ≤ 2 ^ 64 - 1 by decide, show (512#128).toNat % 8 = 0 by decide,
      show (2 : Nat) = blockCount .sha256 512#128 by decide⟩
  · intro v _ he
    cases he
  · intro hb
    cases hb
  · intro v hv _ i hi
    rw [midRun_variant hv] at hi ⊢
    have hi : i < 8 := hi
    rw [show elemAt (midRun p j t).H i = .w32 1#32 from elemAt_uniform 8 i _ hi]
    rfl
  · intro v hv _ i hi
    rw [midRun_variant hv] at hi
    have hi : i < 64 := hi
    rw [show byteAt (midRun p j t).M i = some 0x61#8 from byteAt_uniform 128 i _ (by omega)]
    rfl
  · intro v hv _ i hi
    have hi : i < t.toNat := hi
    rw [midRun_variant hv, midRun_W p j t (by omega), if_neg (by omega)]
    rfl
  · intro hq i hi
    have hi : t.toNat ≤ i := hi
    have hq : p = phaseSCHED := hq
    by_cases h80 : i < 80
    · rw [midRun_W p j t h80, if_pos ⟨hq, hi⟩]
    · exact elemAt_out _ (by omega)
  · intro v hv hq i hi
    rw [midRun_variant hv] at hi ⊢
    have hi : i < 64 := hi
    have hq : p = phaseLDV ∨ p = phaseROUND := hq
    have hne : p ≠ phaseSCHED := by
      rcases hq with rfl | rfl <;> decide
    rw [midRun_W p j t (by omega), if_neg (fun h => hne h.1)]
    rfl
  · intro v hv _ i hi
    rw [midRun_variant hv] at hi ⊢
    have hi : i < 8 := hi
    rw [show elemAt (midRun p j t).V i = .w32 2#32 from elemAt_uniform 8 i _ hi]
    rfl

/-- After reset, with these turns to come. -/
def waiting (ts : List Turn) : State := State.reset.setTurns ts

/-- The write of a variant's command. -/
def commandTurn (v : Variant) : Turn := .host (.write 0#5 (commandWord v))

/-- The largest bit length in range that is a multiple of 8. -/
def longest (v : Variant) : State :=
  if v.isFam64 then withLength 0xFFFFFFFF 0xFFFFFFFF 0xFFFFFFFF 0xFFFFFFF8 else withLength 0 0 0xFFFFFFFF 0xFFFFFFF8

/-- A digest of SHA-384 is there; `x` fills what no host register shows. -/
def finished (x : Word64) : State :=
  { State.reset with VAR := 3#3, DONE := true, NBLK := 1#119, H := uniformFile 8 (.w64 7#64), V := uniformFile 8 (.w64 x) }

theorem finished_inv (x : Word64) : (finished x).Inv := by
  have hv : ∀ v, (finished x).variant? = some v → v = .sha384 := fun v h => (Option.some.inj h).symm
  have no : (finished x).BUSY = true → False := fun h => by cases h
  have idle : ∀ p, (finished x).PHASE = p → p = phaseIDLE := fun p h => h.symm
  refine ⟨⟨show (3 : Nat) ≤ 4 by decide, show (0 : Nat) ≤ 5 by decide, ⟨fun h => (no h).elim, fun h => absurd rfl h⟩,
    ⟨fun h => no h.1, fun h => no h.1, fun h => by cases h.2⟩, fun _ => ⟨rfl, rfl⟩, ?_, fun _ => rfl, fun h => (no h).elim, ?_,
    fun _ _ h => (by cases h), fun _ h => (by cases h)⟩,
    ⟨?_, fun _ _ h => absurd (idle _ h) (by decide), fun _ _ h => absurd (idle _ h) (by decide),
      fun h => absurd (idle _ h) (by decide), fun _ _ h => h.elim (fun h => absurd (idle _ h) (by decide))
        (fun h => absurd (idle _ h) (by decide)), fun _ _ h => h.elim (fun h => absurd (idle _ h) (by decide))
        (fun h => absurd (idle _ h) (by decide))⟩, rfl, fun _ h => (by cases h), fun _ => rfl⟩
  · intro v h
    rw [hv v h]
    exact show (0 : Nat) < 80 by decide
  · intro v h _
    rw [hv v h]
    exact ⟨Nat.zero_le _, rfl, show (1 : Nat) = blockCount .sha384 0#128 by decide⟩
  · intro v h _ i hi
    rw [hv v h] at hi ⊢
    have hi : i < 8 := hi
    rw [show elemAt (finished x).H i = .w64 7#64 from elemAt_uniform 8 i _ hi]
    rfl

/-- A digest of SHA-224 is there. -/
def finished32 : State := { State.reset with VAR := 1#3, DONE := true, NBLK := 1#119, H := uniformFile 8 (.w32 7#32) }

theorem witness_DecodeOfEncode : (Instr.wexpSha1 16#7).wf = true ∧ (Instr.wexpSha1 79#7).wf = true ∧
    (Instr.wld64 .sha384 15#7).wf = true := by decide

theorem witness_EncodeOfDecode : decode (.command 0x10#32) = .ok .digestSha1 ∧
    decode (.stepWord 0x124F#13) = .ok (.rndS512 .sha512 79#7) := ⟨rfl, rfl⟩

theorem witness_CommandWordTable : (0x0F#32 ≠ 0x10#32 ∧ 0x0F#32 ≠ 0x11#32 ∧ 0x0F#32 ≠ 0x12#32 ∧ 0x0F#32 ≠ 0x13#32 ∧
    0x0F#32 ≠ 0x14#32) ∧ decodeCommand 0x0F#32 = .error .reservedCommand ∧ decodeCommand 0x15#32 = .error .reservedCommand :=
  ⟨by decide, rfl, rfl⟩

/-- A reachable state that is not idle. -/
theorem witness_reachable : Reachable ((waiting []).accept .sha1 |>.start .sha1) :=
  .step _ _ (.environment _ [commandTurn .sha1] .reset) rfl

theorem witness_StepWordTable : ∃ s, Reachable s ∧ s.PHASE ≠ phaseIDLE :=
  ⟨_, witness_reachable, by decide⟩

theorem witness_StepWordsOutsideTheTable :
    stepPhase 0x047F#13 = 0#3 ∧ (stepPhase 0x1480#13 ≠ 0#3 ∧ 5 ≤ (stepVar 0x1480#13).toNat) ∧
    ((stepVar 0x1300#13).toNat ≤ 4 ∧ 6 ≤ (stepPhase 0x1300#13).toNat) ∧
    ((stepVar 0x0081#13).toNat ≤ 4 ∧ stepPhase 0x0081#13 = 1#3 ∧ stepIndex 0x0081#13 ≠ 0#7) ∧
    (Variant.sha224.code = stepVar 0x0540#13 ∧ stepPhase 0x0540#13 = 2#3 ∧ Variant.sha224.R ≤ (stepIndex 0x0540#13).toNat) ∧
    (Variant.sha1.code = stepVar 0x0250#13 ∧ stepPhase 0x0250#13 = 4#3 ∧ Variant.sha1.R ≤ (stepIndex 0x0250#13).toNat) := by
  decide

/-- A running invocation with `rst` about to be asserted, and with `rst` asserted. -/
theorem witness_AssertedResetStopsTheEngine :
    (∀ ts, ((midRun phaseROUND 1#119 5#7).setTurns ts).turns = ts) ∧
    (let s := (midRun phaseROUND 1#119 5#7).assertReset
     s.RST = true ∧ ∀ ts, (s.setTurns ts).RST = true ∧ (s.setTurns ts).turns = ts) :=
  ⟨fun _ => rfl, rfl, fun _ => ⟨rfl, rfl⟩⟩

/-- A running invocation; while `rst` is asserted the host writes `CMD` and reads `DOUT0` and `STATUS`. A finished one of SHA-384;
the host reads the first and the last `DOUT` past the digest. -/
theorem witness_ResetTurnLosesTheInvocation :
    (let us : List Turn := [.engine, commandTurn .sha1, .host (.read 8#5), .host (.read 1#5)]
     let s := (midRun phaseROUND 1#119 5#7).setTurns (.assertRst :: (us ++ .releaseRst :: []))
     s.turns = .assertRst :: (us ++ .releaseRst :: []) ∧ .releaseRst ∉ us ∧ s.DONE = false ∧
       ∀ a b, .host (.place a b) ∉ us) ∧
    (let us : List Turn := [.host (.read 20#5), .host (.read 23#5)]
     let s := (finished 0#64).setTurns (.assertRst :: (us ++ .releaseRst :: []))
     s.turns = .assertRst :: (us ++ .releaseRst :: []) ∧ .releaseRst ∉ us ∧
       ∃ v, s.variant? = some v ∧ v.doutCount ≤ (20#5).toNat - 8 ∧ v.doutCount ≤ (23#5).toNat - 8) :=
  ⟨⟨rfl, by decide, rfl, fun a b => by simp [commandTurn]⟩, ⟨rfl, by decide, .sha384, rfl, by decide, by decide⟩⟩

theorem witness_HostWriteOfLEN : (waiting [.host (.write 2#5 1#32)]).held = none ∧ (∀ ts, (waiting ts).RST = false) ∧
    (waiting [.host (.write 2#5 1#32)]).turns = .host (.write 2#5 1#32) :: [] ∧ 2 ≤ (2#5).toNat ∧ (2#5).toNat ≤ 5 ∧
    (waiting [.host (.write 5#5 1#32)]).turns = .host (.write 5#5 1#32) :: [] ∧ 2 ≤ (5#5).toNat ∧ (5#5).toNat ≤ 5 :=
  ⟨rfl, fun _ => rfl, rfl, by decide, by decide, rfl, by decide, by decide⟩

theorem witness_WritesWithoutEffectAreDiscarded :
    (waiting [.host (.write 0#5 0x15#32)]).turns = .host (.write 0#5 0x15#32) :: [] ∧
    (waiting [.host (.write 0#5 0x15#32)]).held = none ∧
    ((0#5).toNat = 0 ∧ ((0x0F#32).toNat < 0x10 ∨ 0x14 < (0x0F#32).toNat)) ∧
    ((0#5).toNat = 0 ∧ ((0x15#32).toNat < 0x10 ∨ 0x14 < (0x15#32).toNat)) ∧ (1#5).toNat = 1 ∧ 6 ≤ (6#5).toNat ∧
    6 ≤ (31#5).toNat := ⟨rfl, rfl, by decide, by decide, by decide, by decide, by decide⟩

theorem witness_HostReadOfSTATUS : (waiting [.host (.read 1#5)]).turns = .host (.read 1#5) :: [] ∧
    (waiting [.host (.read 1#5)]).held = none ∧ (waiting [.host (.read 1#5)]).RST = false := ⟨rfl, rfl, rfl⟩

theorem witness_HostReadOfLEN : (waiting [.host (.read 2#5), .host (.read 5#5)]).turns =
      .host (.read 2#5) :: [.host (.read 5#5)] ∧ (waiting [.host (.read 2#5), .host (.read 5#5)]).held = none ∧
    (waiting [.host (.read 2#5), .host (.read 5#5)]).RST = false ∧
    2 ≤ (2#5).toNat ∧ (2#5).toNat ≤ 5 ∧ 2 ≤ (5#5).toNat ∧ (5#5).toNat ≤ 5 :=
  ⟨rfl, rfl, rfl, by decide, by decide, by decide, by decide⟩

/-- A write and the read after it, and a step after which `LEN3` reads otherwise. -/
theorem witness_HostReadOfLEN_write :
    (let s := waiting [.host (.write 5#5 1#32), .host (.read 5#5)]
     s.turns = .host (.write 5#5 1#32) :: .host (.read 5#5) :: [] ∧ s.held = none ∧ s.RST = false ∧
       ∃ t, step s = .next t ∧ t.hostRead 5#5 ≠ s.hostRead 5#5) := ⟨rfl, rfl, rfl, _, rfl, by decide⟩

theorem witness_HostReadOfDOUTAndZeroRegisters : (waiting [.host (.read 23#5)]).turns = .host (.read 23#5) :: [] ∧
    (waiting [.host (.read 23#5)]).held = none ∧ (waiting [.host (.read 23#5)]).RST = false ∧ (0#5).toNat = 0 ∧
    (∀ n ∈ [6#5, 7#5], 6 ≤ n.toNat ∧ n.toNat < 8) ∧ (∀ n ∈ [8#5, 23#5], 8 ≤ n.toNat ∧ n.toNat ≤ 23) ∧
    (∀ n ∈ [24#5, 31#5], 23 < n.toNat) := ⟨rfl, rfl, rfl, by decide, by decide, by decide, by decide⟩

/-- One witness for each of the five outcomes: reserved word, held, too long, not whole bytes, started. -/
theorem witness_CommandWriteJudgedInOrder :
    (waiting [.host (.write 0#5 0x15#32)]).turns = .host (.write 0#5 0x15#32) :: [] ∧
    (waiting [.host (.write 0#5 0x15#32)]).RST = false ∧ (∀ v : Variant, 0x15#32 ≠ commandWord v) ∧
    (midRun phaseROUND 1#119 63#7).BUSY = true ∧
    ((withLength 0 1 0 1).BUSY = false ∧ Variant.sha256.LMAX < (withLength 0 1 0 1).bitLength.toNat) ∧
    ((withLength 0 0 0 7).bitLength.toNat ≤ Variant.sha1.LMAX ∧ (withLength 0 0 0 7).bitLength.toNat % 8 ≠ 0) ∧
    ((longest .sha224).bitLength.toNat ≤ Variant.sha224.LMAX ∧ (longest .sha224).bitLength.toNat % 8 = 0) :=
  ⟨rfl, rfl, fun v => by cases v <;> decide, rfl, by decide, by decide, by decide⟩

theorem witness_DigestStartsInvocation : ∀ v : Variant, (longest v).BUSY = false ∧ (longest v).bitLength.toNat ≤ v.LMAX ∧
    (longest v).bitLength.toNat % 8 = 0 ∧ State.reset.bitLength.toNat ≤ v.LMAX ∧ State.reset.bitLength.toNat % 8 = 0 := by
  intro v
  cases v <;> decide

theorem witness_DigestRaisesLengthOverflow : (withLength 0 1 0 0).BUSY = false ∧
    Variant.sha1.LMAX < (withLength 0 1 0 0).bitLength.toNat := by decide

theorem witness_LengthOverflowExactly : (withLength 0 1 0 0).BUSY = false ∧
    (∃ t, exec (digestInstr .sha224) (withLength 0 1 0 0) = .next t ∧ Variant.sha224.isFam32 = true) ∧
    (∃ t, exec (digestInstr .sha224) (withLength 0 0 0xFFFFFFFF 0xFFFFFFF8) = .next t) ∧
    (∃ t, exec (digestInstr .sha512) (withLength 0 1 0 0) = .next t ∧ Variant.sha512.isFam64 = true) :=
  ⟨rfl, ⟨_, rfl, rfl⟩, ⟨_, rfl⟩, ⟨_, rfl, rfl⟩⟩

theorem witness_CommandHeldWhileBusy :
    (let s := (midRun phaseSCHED 0#119 63#7).setTurns [commandTurn .sha1]
     s.turns = commandTurn .sha1 :: [] ∧ s.held = none ∧ s.RST = false ∧ s.BUSY = true) ∧
    (let s := (midRun phaseSCHED 0#119 63#7).setHeld (some (commandWord .sha1))
     s.Inv ∧ s.variant? = some .sha256 ∧ s.held = some (commandWord .sha1) ∧ s.BUSY = true ∧ s.RST = false ∧
       s.rstNext = false ∧ s.turns = []) ∧
    (let s := State.reset.setHeld (some (commandWord .sha1))
     s.held = some (commandWord .sha1) ∧ s.BUSY = false ∧ s.RST = false ∧ s.rstNext = false) :=
  ⟨⟨rfl, rfl, rfl, rfl⟩,
    ⟨(midRun_inv phaseSCHED 0#119 63#7 (by decide) (by decide) (by decide) (by decide) (by decide)).hold rfl .sha1, rfl, rfl,
      rfl, rfl, rfl, rfl⟩,
    ⟨rfl, rfl, rfl, rfl⟩⟩

theorem witness_ZeroPaddingLength : (448 : Nat) % 8 = 0 ∧ (440 : Nat) % 8 = 0 ∧
    ((448 + 1 + 511) % Variant.sha1.Bb = Variant.sha1.Bb - Variant.sha1.lfb) := by decide

theorem witness_BlockCountForms : ∀ v : Variant, (longest v).bitLength.toNat ≤ v.LMAX ∧ (longest v).bitLength.toNat % 8 = 0 ∧
    (0#128).toNat ≤ v.LMAX ∧ (0#128).toNat % 8 = 0 := by
  intro v
  cases v <;> decide

/-- 64 bytes in two blocks: an index on each side of each border of the four ranges. -/
theorem witness_PaddedBufferRanges :
    (let s := midRun phasePAD 1#119 0#7
     s.L.toNat ≤ Variant.sha256.LMAX ∧ s.L.toNat % 8 = 0 ∧ s.NBLK.toNat = blockCount .sha256 s.L ∧
       (∀ i ∈ [0, 63, 64, 65, 119, 120, 127], i < s.NBLK.toNat * Variant.sha256.B) ∧
       63 < s.L.toNat / 8 ∧ 64 = s.L.toNat / 8 ∧
       (∀ i ∈ [65, 119], s.L.toNat / 8 < i ∧ i < s.NBLK.toNat * Variant.sha256.B - Variant.sha256.LB) ∧
       (∀ i ∈ [120, 127], s.NBLK.toNat * Variant.sha256.B - Variant.sha256.LB ≤ i)) := by decide

/-- The two borders of R136: 55 bytes (one tail block) and 56 bytes (two). -/
theorem witness_MarkerAndLengthPlacement :
    (let s := { midRun phasePAD 0#119 0#7 with L := 440#128, NBLK := 1#119 }
     s.L.toNat ≤ Variant.sha256.LMAX ∧ s.L.toNat % 8 = 0 ∧ s.NBLK.toNat = blockCount .sha256 s.L ∧
       s.L.toNat / 8 % Variant.sha256.B + Variant.sha256.LB + 1 ≤ Variant.sha256.B) ∧
    (let s := { midRun phasePAD 0#119 0#7 with L := 448#128 }
     s.L.toNat ≤ Variant.sha256.LMAX ∧ s.L.toNat % 8 = 0 ∧ s.NBLK.toNat = blockCount .sha256 s.L ∧
       Variant.sha256.B ≤ s.L.toNat / 8 % Variant.sha256.B + Variant.sha256.LB) ∧
    (let s := midRun phasePAD 0#119 0#7
     s.L.toNat % 8 = 0 ∧ 0 < s.L.toNat / 8 / Variant.sha256.B) := by decide

theorem witness_Wld32LoadsRawWord : (Instr.wld32 .sha1 0#7).wf = true ∧ (Instr.wld32 .sha256 15#7).wf = true := by decide

theorem witness_Wld64LoadsRawWord : (Instr.wld64 .sha384 0#7).wf = true ∧ (Instr.wld64 .sha512 15#7).wf = true := by decide

theorem witness_WexpSha1ExpandsSchedule : (Instr.wexpSha1 16#7).wf = true ∧ (Instr.wexpSha1 79#7).wf = true := by decide

theorem witness_WexpS256ExpandsSchedule : (Instr.wexpS256 .sha224 16#7).wf = true ∧ (Instr.wexpS256 .sha256 63#7).wf = true := by
  decide

theorem witness_WexpS512ExpandsSchedule : (Instr.wexpS512 .sha384 16#7).wf = true ∧ (Instr.wexpS512 .sha512 79#7).wf = true := by
  decide

theorem witness_SmallSigmaBits : (0 < 32 ∧ 0 + 3 < 32) ∧ (31 < 32 ∧ ¬31 + 3 < 32) ∧ 63 < 64 := by decide

theorem witness_LogicalFunctionBits : (31 < 32) ∧ (63 < 64) := by decide

theorem witness_CapitalSigmaBits : (31 < 32) ∧ (63 < 64) := by decide

theorem witness_LdvLoadsWorkingState : (elemAt (midRun phaseLDV 0#119 0#7).H 7).holds .sha256 = true ∧ 7 < Variant.sha256.NV ∧
    Variant.sha1.NV ≤ 5 := by decide

theorem witness_Sha1RoundsUpdateWorkingState : (Instr.rndSha1Ch 0#7).wf = true ∧ (Instr.rndSha1Ch 19#7).wf = true ∧
    (Instr.rndSha1Par1 20#7).wf = true ∧ (Instr.rndSha1Par1 39#7).wf = true ∧ (Instr.rndSha1Maj 40#7).wf = true ∧
    (Instr.rndSha1Maj 59#7).wf = true ∧ (Instr.rndSha1Par2 60#7).wf = true ∧ (Instr.rndSha1Par2 79#7).wf = true := by decide

theorem witness_RndS256UpdatesWorkingState : (Instr.rndS256 .sha224 0#7).wf = true ∧ (Instr.rndS256 .sha256 63#7).wf = true := by
  decide

theorem witness_RndS512UpdatesWorkingState : (Instr.rndS512 .sha384 0#7).wf = true ∧ (Instr.rndS512 .sha512 79#7).wf = true := by
  decide

/-- The last block and one before it. -/
theorem witness_AccAddsWorkingState : (midRun phaseACC 1#119 0#7).BIDX.toNat + 1 = (midRun phaseACC 1#119 0#7).NBLK.toNat ∧
    (midRun phaseACC 0#119 0#7).BIDX.toNat + 1 ≠ (midRun phaseACC 0#119 0#7).NBLK.toNat := by decide

theorem witness_DoutOf32BitFamily : finished32.variant? = some .sha224 ∧ Variant.sha224.isFam32 = true ∧
    finished32.DONE = true ∧ 6 < Variant.sha224.NOUT ∧ elemAt finished32.H 6 = .w32 7#32 ∧ Variant.sha224.NOUT ≤ 7 ∧
    State.reset.variant? = some .sha1 ∧ State.reset.DONE = false := by decide

theorem witness_DoutOf64BitFamily : (finished 0#64).variant? = some .sha384 ∧ Variant.sha384.isFam64 = true ∧
    (finished 0#64).DONE = true ∧ 5 < Variant.sha384.NOUT ∧ elemAt (finished 0#64).H 5 = .w64 7#64 ∧ Variant.sha384.NOUT ≤ 6 ∧
    { finished 0#64 with DONE := false }.DONE = false := by decide

theorem witness_DigestBytesFromDout :
    (finished32.variant? = some .sha224 ∧ finished32.DONE = true ∧ 6 < Variant.sha224.NOUT ∧ 3 < Variant.sha224.wb ∧
      Variant.sha224.isFam32 = true) ∧
    ((finished 0#64).variant? = some .sha384 ∧ (finished 0#64).DONE = true ∧ 5 < Variant.sha384.NOUT ∧ 7 < Variant.sha384.wb ∧
      Variant.sha384.isFam64 = true) := by decide

/-- One step that leaves the digest there, one that starts the next invocation. -/
theorem witness_DigestImmutableOnceProduced :
    (finished 1#64).Inv ∧ (finished 1#64).DONE = true ∧
    (∃ t, step (finished 1#64) = .next t ∧ t.DONE = true) ∧
    (∃ t, step ((finished 1#64).assertReset.setTurns [.host (.read 8#5)]) = .next t ∧ t.DONE = true) ∧
    (∃ t, step ((finished 1#64).setTurns [commandTurn .sha512]) = .next t ∧ t.DONE = false) :=
  ⟨finished_inv 1#64, rfl, ⟨_, rfl, rfl⟩, ⟨_, rfl, rfl⟩, ⟨_, rfl, rfl⟩⟩

/-- R203, R205: SHA-224's digest has 7 `DOUT` registers; `DOUT7`, the dropped word, reads 0 also while `rst` is asserted. -/
theorem test_dropped_word_in_reset : Variant.sha224.doutCount = 7 ∧
    after (step (finished32.assertReset.setTurns [.host (.read 15#5)])) (fun t => t.reads) = some [(15#5, 0#32)] := by
  decide +kernel

theorem witness_ErrorStaysUntilNextCommand :
    (let s := { waiting [commandTurn .sha512] with ERR := true }
     s.ERR = true ∧ ∃ t, step s = .next t ∧ t.ERR = false) := ⟨rfl, _, rfl, rfl⟩

theorem witness_EngineStepRunsDecodedMicroOp :
    (let s := midRun phaseSCHED 0#119 15#7
     s.PHASE ≠ phaseIDLE ∧ decodeStepWord s.stepWord = .ok (.wld32 .sha256 15#7) ∧ s.turns = [] ∧ s.held = none ∧
       s.RST = false ∧ (s.setTurns [.engine]).turns = .engine :: []) := ⟨by decide, rfl, rfl, rfl, rfl, rfl⟩

theorem witness_HostStepRunsDecodedCommand : decodeCommand 0x12#32 = .ok .digestSha256 ∧
    (waiting [.host (.write 0#5 0x12#32)]).held = none ∧ (waiting [.host (.write 0#5 0x12#32)]).RST = false ∧
    (waiting [.host (.write 0#5 0x12#32)]).turns = .host (.write 0#5 0x12#32) :: [] := ⟨rfl, rfl, rfl, rfl⟩

/-- What `NextPositionTable` asks of a state, met by SHA-256 at a position. -/
def Running (p : BitVec 3) (j : BitVec 119) (t : BitVec 7) : Prop :=
  (midRun p j t).Inv ∧ (midRun p j t).variant? = some .sha256 ∧ (midRun p j t).engineAlone ∧ (midRun p j t).BUSY = true

theorem running_of (p : BitVec 3) (j : BitVec 119) (t : BitVec 7) (hp : p ≠ phaseIDLE) (hp5 : p.toNat ≤ 5)
    (hj : j.toNat < 2) (ht : t.toNat < 64) (h0 : p = phasePAD ∨ p = phaseLDV ∨ p = phaseACC → t = 0#7) : Running p j t :=
  ⟨midRun_inv p j t hp hp5 hj ht h0, rfl, ⟨rfl, rfl, rfl⟩, rfl⟩

/-- A position of each row of R216, the ends of the index and of the block range among them. -/
theorem witness_NextPositionTable :
    Running phasePAD 0#119 0#7 ∧ Running phaseSCHED 0#119 62#7 ∧ Running phaseSCHED 1#119 63#7 ∧ Running phaseLDV 0#119 0#7 ∧
    Running phaseROUND 0#119 62#7 ∧ Running phaseROUND 1#119 63#7 ∧ Running phaseACC 0#119 0#7 ∧
    Running phaseACC 1#119 0#7 := by
  refine ⟨?_, ?_, ?_, ?_, ?_, ?_, ?_, ?_⟩ <;> exact running_of _ _ _ (by decide) (by decide) (by decide) (by decide) (by decide)

theorem witness_StepKeepsInvariant : (midRun phaseACC 1#119 0#7).Inv ∧ ∃ t, step (midRun phaseACC 1#119 0#7) = .next t :=
  ⟨midRun_inv _ _ _ (by decide) (by decide) (by decide) (by decide) (by decide), _, rfl⟩

theorem witness_NoReachableStepReadsInvalid : ∃ s, Reachable s ∧ s.PHASE ≠ phaseIDLE ∧
    decodeStepWord s.stepWord = .ok (.padblk .sha1) := ⟨_, witness_reachable, by decide, rfl⟩

/-- A reachable state whose step completes, and one whose step meets the case the spec leaves unspecified. -/
theorem witness_ReachableStepCompletes : (Reachable State.reset ∧ ∃ t, step State.reset = .next t) ∧
    ∃ s, Reachable s ∧ step s = .refused .unalignedLength :=
  ⟨⟨.reset, _, rfl⟩,
    _, .step _ _ (.environment _ [.host (.write 2#5 7#32), commandTurn .sha1] .reset) rfl, rfl⟩

/-- The hypotheses of `InvocationTerminatesExactly`, `EndToEndContract` and `InvocationReadsMessageOnce`, at the least and at the
largest length of every variant. -/
theorem witness_command_alone : ∀ v : Variant, ∀ s ∈ [State.reset, longest v],
    (s.setTurns [commandTurn v]).BUSY = false ∧ (s.setTurns [commandTurn v]).held = none ∧
      (s.setTurns [commandTurn v]).RST = false ∧
      (s.setTurns [commandTurn v]).turns = [.host (.write 0#5 (commandWord v))] ∧
      (s.setTurns [commandTurn v]).bitLength.toNat ≤ v.LMAX ∧ (s.setTurns [commandTurn v]).bitLength.toNat % 8 = 0 := by
  intro v
  cases v <;> decide

/-- Two engines that differ in what they hold and agree on the message "abc". -/
theorem witness_DigestDependsOnMessageOnly :
    (let s₁ := { waiting [commandTurn .sha512] with LEN0 := 24#32, MSG := abcMSG }
     let s₂ := { (finished 9#64).setTurns [commandTurn .sha512] with LEN0 := 24#32, MSG := abcMSG ++ [(3, 0x64#8)] }
     s₁.BUSY = false ∧ s₂.BUSY = false ∧ s₁.held = none ∧ s₂.held = none ∧
       s₁.RST = false ∧ s₂.RST = false ∧
       s₁.turns = [.host (.write 0#5 (commandWord .sha512))] ∧ s₂.turns = [.host (.write 0#5 (commandWord .sha512))] ∧
       s₁.bitLength = s₂.bitLength ∧ s₁.bitLength.toNat ≤ Variant.sha512.LMAX ∧ s₁.bitLength.toNat % 8 = 0 ∧
       ∀ a, a < s₁.bitLength.toNat / 8 → Memory.read s₁.MSG a = Memory.read s₂.MSG a) := by decide

/-- Two engines at the same position that differ in the Working State. -/
theorem witness_ControlFlowIgnoresData :
    (let s₁ := midRun phaseROUND 0#119 63#7
     let s₂ := (midRun phaseROUND 0#119 63#7).setV (uniformFile 8 (.w32 9#32))
     s₁.engineAlone ∧ s₂.engineAlone ∧ s₂.PHASE = s₁.PHASE ∧ s₂.BIDX = s₁.BIDX ∧ s₂.T = s₁.T ∧ s₂.VAR = s₁.VAR ∧
       s₂.NBLK = s₁.NBLK ∧ s₂.BUSY = s₁.BUSY ∧ s₂.DONE = s₁.DONE ∧ s₂.ERR = s₁.ERR ∧ ∃ t₁, step s₁ = .next t₁) :=
  ⟨⟨rfl, rfl, rfl⟩, ⟨rfl, rfl, rfl⟩, rfl, rfl, rfl, rfl, rfl, rfl, rfl, rfl, _, rfl⟩

/-- Two engines that differ in what no host register shows. -/
theorem witness_HostSeesOnlyFlagsLengthAndDigest :
    (let s₁ := finished 1#64
     let s₂ := finished 2#64
     s₂.BUSY = s₁.BUSY ∧ s₂.DONE = s₁.DONE ∧ s₂.ERR = s₁.ERR ∧ s₂.VAR = s₁.VAR ∧ s₂.LEN0 = s₁.LEN0 ∧ s₂.LEN1 = s₁.LEN1 ∧
       s₂.LEN2 = s₁.LEN2 ∧ s₂.LEN3 = s₁.LEN3 ∧ s₁.DONE = true ∧ s₁.variant? = some .sha384 ∧
       ∀ i, i < Variant.sha384.NOUT → (elemAt s₁.H i).holds .sha384 = true ∧ elemAt s₂.H i = elemAt s₁.H i) := by decide

theorem witness_NoInstructionWritesMSGOrLEN :
    ∃ t, exec (.padblk .sha256) (midRun phasePAD 0#119 0#7) = .next t := ⟨_, rfl⟩

theorem witness_OnlyTheHostChangesMSG :
    (let s := waiting [.host (.place 5#125 0x61#8)]
     Memory.wf s.MSG = true ∧ ∃ t, step s = .next t ∧ Memory.read t.MSG 5 ≠ Memory.read s.MSG 5) :=
  ⟨rfl, _, rfl, by decide⟩

theorem witness_PlacedByteReadsBack :
    (let s := { waiting [.host (.place 2#125 0x61#8)] with MSG := abcMSG }
     s.turns = .host (.place 2#125 0x61#8) :: [] ∧ (s.assertReset.RST = true ∧ s.held = none) ∧ Memory.wf s.MSG = true) :=
  ⟨rfl, ⟨rfl, rfl⟩, by decide⟩

end Sys2Proof.Tests
end

-- ==== Proofs: the digest depends on variant and message only (O54) ====
section
/-! The digest is a function of variant and message (spec/00_scope.md R2): two runs of the same command on the same
message stay alike, step by step, whatever the engines held before. -/

namespace Sys2Proof

theorem Variant.NV_le (v : Variant) : v.NV ≤ 8 := by cases v <;> decide

theorem Variant.NOUT_le_NV (v : Variant) : v.NOUT ≤ v.NV := by cases v <;> decide

theorem Variant.R_le (v : Variant) : v.R ≤ 80 := by cases v <;> decide

theorem Variant.R_pos (v : Variant) : 0 < v.R := by cases v <;> decide

theorem decodeStepWord_pad (v : Variant) : decodeStepWord (packStepWord v.code phasePAD 0#7) = .ok (.padblk v) := by
  simp [decodeStepWord, decodeUnindexed]

theorem decodeStepWord_sched (v : Variant) (t : BitVec 7) :
    decodeStepWord (packStepWord v.code phaseSCHED t) = decodeSched v t := by
  simp [decodeStepWord, phaseIDLE, phasePAD, phaseSCHED]

theorem decodeStepWord_ldv (v : Variant) : decodeStepWord (packStepWord v.code phaseLDV 0#7) = .ok (.ldv v) := by
  simp [decodeStepWord, decodeUnindexed, phaseIDLE, phasePAD, phaseSCHED, phaseLDV]

theorem decodeStepWord_round (v : Variant) (t : BitVec 7) :
    decodeStepWord (packStepWord v.code phaseROUND t) = decodeRound v t := by
  simp [decodeStepWord, phaseIDLE, phasePAD, phaseSCHED, phaseLDV, phaseROUND]

theorem decodeStepWord_acc (v : Variant) : decodeStepWord (packStepWord v.code phaseACC 0#7) = .ok (.acc v) := by
  simp [decodeStepWord, decodeUnindexed, phaseIDLE, phasePAD, phaseSCHED, phaseLDV, phaseROUND, phaseACC]

end Sys2Proof

namespace Sys2Proof.Machine

open Sys2Proof Host

/-! ## What the running engine's step is, phase by phase -/

/-- With the engine alone, a step outside `IDLE` performs the micro-operation of the step word (R215). -/
theorem step_micro {s : State} {i : Instr} (h : s.engineAlone) (hp : s.PHASE ≠ phaseIDLE)
    (hd : decodeStepWord s.stepWord = .ok i) : step s = exec i s.nextTick := by
  obtain ⟨hturns, hheld, hrst⟩ := h
  rw [step_engine hturns (.inl hheld) hrst, engineTurn, if_neg hp, hd]

/-- What the `SCHED` step of index `t` writes to `W[t]` (R150 to R154). -/
def State.schedElem (s : State) (v : Variant) (t : Nat) : Elem :=
  if t < 16 then (if v.isFam64 then .w64 (s.rawWord64 t) else .w32 (s.rawWord32 t))
  else
    match v with
    | .sha1 => .w32 (s.expandSha1 t)
    | .sha224 | .sha256 => .w32 (s.expandS256 t)
    | .sha384 | .sha512 => .w64 (s.expandS512 t)

/-- What the round of index `t` writes to `V[0 .. NV-1]` (R171 to R176). -/
def State.roundElems (s : State) (v : Variant) (t : Nat) : List Elem :=
  match v with
  | .sha1 => (sha1Round (refSha1Fn t) (k1 (t / 20)) (s.w32 t) s.work5).toList.map .w32
  | .sha224 | .sha256 =>
    (sha2Round bigSigma0_256 bigSigma1_256 (k256 t) (s.w32 t) s.work8x32).toList.map .w32
  | .sha384 | .sha512 =>
    (sha2Round bigSigma0_512 bigSigma1_512 (k512 t) (s.w64 t) s.work8x64).toList.map .w64

/-- Every `SCHED` row of R96 writes the schedule element of its index. -/
theorem exec_decodeSched (s : State) {v : Variant} {t : BitVec 7} (ht : t.toNat < v.R) :
    ∃ i, decodeSched v t = .ok i ∧ exec i s = .next (s.writeSched v t (s.schedElem v t.toNat)) := by
  by_cases h16 : t.toNat < 16
  · cases v <;> simp [decodeSched, State.schedElem, h16, exec_wld32, exec_wld64, Variant.isFam64]
  · cases v <;> simp only [Variant.R] at ht <;>
      simp [decodeSched, State.schedElem, h16, ht, exec_wexpSha1, exec_wexpS256, exec_wexpS512]

/-- The four SHA-1 rows of R96 are the one round of R180, with the function and the constant of their range of `T`. -/
theorem exec_decodeRound_sha1 (s : State) {t : BitVec 7} (ht : t.toNat < 80) :
    ∃ i, decodeRound .sha1 t = .ok i ∧ exec i s = .next (s.roundSha1 (refSha1Fn t.toNat) (t.toNat / 20) t) := by
  by_cases h20 : t.toNat < 20
  · have hk : t.toNat / 20 = 0 := by omega
    simp [decodeRound, refSha1Fn, h20, hk, exec_rndSha1Ch]
  by_cases h40 : t.toNat < 40
  · have hk : t.toNat / 20 = 1 := by omega
    simp [decodeRound, refSha1Fn, h20, h40, hk, exec_rndSha1Par1]
  by_cases h60 : t.toNat < 60
  · have hk : t.toNat / 20 = 2 := by omega
    simp [decodeRound, refSha1Fn, h20, h40, h60, hk, exec_rndSha1Maj]
  · have hk : t.toNat / 20 = 3 := by omega
    simp [decodeRound, refSha1Fn, h20, h40, h60, ht, hk, exec_rndSha1Par2]

/-- Every `ROUND` row of R96 writes the working variables of its round. -/
theorem exec_decodeRound (s : State) {v : Variant} {t : BitVec 7} (ht : t.toNat < v.R) :
    ∃ i, decodeRound v t = .ok i ∧
      exec i s = .next ((s.setV (overwrite (s.roundElems v t.toNat) s.V)).nextRound v t) := by
  cases v
  case sha1 => exact exec_decodeRound_sha1 s ht
  case sha224 => exact ⟨_, if_pos ht, rfl⟩
  case sha256 => exact ⟨_, if_pos ht, rfl⟩
  case sha384 => exact ⟨_, if_pos ht, rfl⟩
  case sha512 => exact ⟨_, if_pos ht, rfl⟩

/-- Writing `V` and moving on in the block leaves everything else alone. -/
theorem setV_setSEQ_keepsRest (s : State) (x : Vector Elem 8) (p : BitVec 3) (t : BitVec 7) :
    s.KeepsRest ((s.setV x).setSEQ p s.BIDX t) :=
  ⟨⟨rfl, rfl, rfl⟩, ⟨rfl, rfl, rfl⟩, ⟨rfl, rfl, rfl, rfl⟩, fun _ => rfl, ⟨rfl, rfl, rfl, rfl, rfl⟩, rfl⟩

/-! ## The parameters of a running invocation -/

/-- The engine, alone, holds the latched parameters of a variant and a bit length, and the message space a message. -/
structure State.Runs (v : Variant) (len : BitVec 128) (msg : Nat → Byte) (s : State) : Prop where
  alone : s.engineAlone
  VAR : s.VAR = v.code
  L : s.L = len
  NBLK : s.NBLK.toNat = blockCount v len
  msg : ∀ a, a < len.toNat / 8 → Memory.read s.MSG a = msg a

section Runs

variable {v : Variant} {len : BitVec 128} {msg : Nat → Byte} {s : State}

theorem State.Runs.nextTick (h : s.Runs v len msg) : s.nextTick.Runs v len msg :=
  ⟨h.alone, h.VAR, h.L, h.NBLK, h.msg⟩

theorem State.Runs.of_frame {t : State} (h : s.Runs v len msg) (hq : s.KeepsParameters t) (hm : s.KeepsMSG t)
    (he : s.KeepsEnvironment t) : t.Runs v len msg := by
  obtain ⟨hturns, hheld, hrst⟩ := h.alone
  exact ⟨⟨he.turns.trans hturns, he.held.trans hheld, he.RST.trans hrst⟩, hq.VAR.trans h.VAR, hq.L.trans h.L,
    by rw [hq.NBLK, h.NBLK], fun a ha => (hm a).trans (h.msg a ha)⟩

theorem State.Runs.of_padblk {t : State} (h : s.Runs v len msg) (ht : execPadblk v s = .next t) : t.Runs v len msg := by
  cases ht
  exact h.of_frame ⟨rfl, rfl, rfl⟩ (fun _ => rfl) ⟨rfl, rfl, rfl, rfl, rfl⟩

theorem State.Runs.of_acc {t : State} (h : s.Runs v len msg) (ht : execAcc v s = .next t) : t.Runs v len msg := by
  obtain ⟨-, rfl⟩ | ⟨-, rfl⟩ := execAcc_next ht
  all_goals exact h.of_frame ⟨rfl, rfl, rfl⟩ (fun _ => rfl) ⟨rfl, rfl, rfl, rfl, rfl⟩

theorem State.Runs.variant (h : s.Runs v len msg) : s.variant? = some v := by
  rw [State.variant?, h.VAR, ofCode_code]

theorem State.Runs.step_idle (h : s.Runs v len msg) (hp : s.PHASE = phaseIDLE) : step s = .next s :=
  Machine.step_idle h.alone.1 h.alone.2.1 h.alone.2.2 hp

theorem State.Runs.step_decoded {p : BitVec 3} {t : BitVec 7} {i : Instr} (h : s.Runs v len msg) (hp : s.PHASE = p)
    (ht : s.T = t) (hp0 : p ≠ phaseIDLE) (hd : decodeStepWord (packStepWord v.code p t) = .ok i) :
    step s = exec i s.nextTick :=
  step_micro h.alone (hp ▸ hp0) (by rw [State.stepWord, h.VAR, hp, ht, hd])

theorem State.Runs.step_pad (h : s.Runs v len msg) (hp : s.PHASE = phasePAD) (ht : s.T = 0#7) :
    step s = execPadblk v s.nextTick := h.step_decoded hp ht (by decide) (decodeStepWord_pad v)

theorem State.Runs.step_ldv (h : s.Runs v len msg) (hp : s.PHASE = phaseLDV) (ht : s.T = 0#7) :
    step s = execLdv v s.nextTick := h.step_decoded hp ht (by decide) (decodeStepWord_ldv v)

theorem State.Runs.step_acc (h : s.Runs v len msg) (hp : s.PHASE = phaseACC) (ht : s.T = 0#7) :
    step s = execAcc v s.nextTick := h.step_decoded hp ht (by decide) (decodeStepWord_acc v)

theorem State.Runs.step_sched (h : s.Runs v len msg) (hp : s.PHASE = phaseSCHED) (ht : s.T.toNat < v.R) :
    step s = .next (s.nextTick.writeSched v s.T (s.nextTick.schedElem v s.T.toNat)) := by
  obtain ⟨i, hd, he⟩ := exec_decodeSched s.nextTick ht
  rw [h.step_decoded hp rfl (by decide) ((decodeStepWord_sched v s.T).trans hd), he]

theorem State.Runs.step_round (h : s.Runs v len msg) (hp : s.PHASE = phaseROUND) (ht : s.T.toNat < v.R) :
    step s = .next
      ((s.nextTick.setV (overwrite (s.nextTick.roundElems v s.T.toNat) s.nextTick.V)).nextRound v s.T) := by
  obtain ⟨i, hd, he⟩ := exec_decodeRound s.nextTick ht
  rw [h.step_decoded hp rfl (by decide) ((decodeStepWord_round v s.T).trans hd), he]

end Runs

/-! ## Files that agree below an index -/

/-- Below `n` the two files hold the same elements, each a word of the variant's width. -/
def AgreeBelow {m : Nat} (v : Variant) (n : Nat) (xs ys : Vector Elem m) : Prop :=
  ∀ i, i < n → elemAt xs i = elemAt ys i ∧ (elemAt xs i).holds v = true

/-- Below `n` the two block buffers hold the same bytes. -/
def BytesAgreeBelow {m : Nat} (n : Nat) (xs ys : Vector (Option Byte) m) : Prop :=
  ∀ i, i < n → ∃ b, byteAt xs i = some b ∧ byteAt ys i = some b

section Agree

variable {v : Variant} {m n : Nat} {xs ys : Vector Elem m}

/-- A word of the 32-bit family reads the same whatever the free value. -/
theorem Elem.to32_of_holds {e : Elem} (h : e.holds v = true) (hv : v.isFam64 = false) (f g : Word64) :
    e.to32 f = e.to32 g := by
  cases e <;> simp_all [Elem.holds, Elem.to32]

/-- A word of the 64-bit family reads the same whatever the free value. -/
theorem Elem.to64_of_holds {e : Elem} (h : e.holds v = true) (hv : v.isFam64 = true) (f g : Word64) :
    e.to64 f = e.to64 g := by
  cases e <;> simp_all [Elem.holds, Elem.to64, Variant.isFam32]

theorem AgreeBelow.to32 (h : AgreeBelow v n xs ys) (hv : v.isFam64 = false) {i : Nat} (hi : i < n) (f g : Word64) :
    (elemAt xs i).to32 f = (elemAt ys i).to32 g := by
  obtain ⟨he, hh⟩ := h i hi
  rw [← he, Elem.to32_of_holds hh hv f g]

theorem AgreeBelow.to64 (h : AgreeBelow v n xs ys) (hv : v.isFam64 = true) {i : Nat} (hi : i < n) (f g : Word64) :
    (elemAt xs i).to64 f = (elemAt ys i).to64 g := by
  obtain ⟨he, hh⟩ := h i hi
  rw [← he, Elem.to64_of_holds hh hv f g]

theorem AgreeBelow.fileSet (h : AgreeBelow v n xs ys) (hn : n < m) {e : Elem} (he : e.holds v = true) :
    AgreeBelow v (n + 1) (fileSet xs n e) (fileSet ys n e) := by
  intro i hi
  rw [elemAt_fileSet xs e i hn, elemAt_fileSet ys e i hn]
  split_ifs with hin
  · exact ⟨rfl, he⟩
  · exact h i (by omega)

theorem AgreeBelow.overwrite {es : List Elem} (hes : ∀ e ∈ es, e.holds v = true) (hm : es.length ≤ m) :
    AgreeBelow v es.length (overwrite es xs) (overwrite es ys) := by
  intro i hi
  rw [elemAt_overwrite es xs (by omega), elemAt_overwrite es ys (by omega), List.getD_eq_getElem _ _ hi,
    List.getD_eq_getElem _ _ hi]
  exact ⟨rfl, hes _ (List.getElem_mem hi)⟩

theorem loadIV_agree (v : Variant) (xs ys : Vector Elem 8) : AgreeBelow v v.NV (loadIV v xs) (loadIV v ys) := by
  intro i hi
  have hi8 : i < 8 := hi.trans_le (v.NV_le)
  rw [elemAt_loadIV v xs hi8, elemAt_loadIV v ys hi8, if_pos hi, if_pos hi]
  refine ⟨rfl, ?_⟩
  revert i
  cases v <;> decide

end Agree

/-! ## What each micro-operation writes, from states that agree on what it reads -/

section Writes

variable {v : Variant} {s t : State}

theorem m8_eq {n i : Nat} (h : BytesAgreeBelow n s.M t.M) (hi : i < n) : s.m8 i = t.m8 i := by
  obtain ⟨b, hs, ht⟩ := h i hi
  rw [State.m8, State.m8, hs, ht]
  rfl

theorem schedElem_holds (s : State) (v : Variant) (i : Nat) : (s.schedElem v i).holds v = true := by
  unfold State.schedElem
  cases v <;> split <;> rfl

/-- The raw words are made of the block buffer. -/
theorem schedElem_eq_raw (hM : BytesAgreeBelow v.B s.M t.M) {i : Nat} (hi : i < 16) :
    s.schedElem v i = t.schedElem v i := by
  cases hv : v.isFam64 with
  | false =>
    have hb : ∀ j, j < 64 → s.m8 j = t.m8 j := fun j hj => m8_eq hM (by simpa [Variant.B, hv] using hj)
    have hr : s.rawWord32 i = t.rawWord32 i := by simp (disch := omega) only [State.rawWord32, hb]
    simp [State.schedElem, hi, hv, hr]
  | true =>
    have hb : ∀ j, j < 128 → s.m8 j = t.m8 j := fun j hj => m8_eq hM (by simpa [Variant.B, hv] using hj)
    have hr : s.rawWord64 i = t.rawWord64 i := by simp (disch := omega) only [State.rawWord64, hb]
    simp [State.schedElem, hi, hv, hr]

/-- The recurrences read schedule words already written. -/
theorem schedElem_eq_expand {i : Nat} (hW : AgreeBelow v i s.W t.W) (hi : ¬i < 16) :
    s.schedElem v i = t.schedElem v i := by
  cases hv : v.isFam64 with
  | false =>
    have hw : ∀ j, j < i → s.w32 j = t.w32 j := fun j hj => hW.to32 hv hj _ _
    cases v
    case sha1 => simp (disch := omega) only [State.schedElem, if_neg hi, State.expandSha1, hw]
    case sha224 => simp (disch := omega) only [State.schedElem, if_neg hi, State.expandS256, hw]
    case sha256 => simp (disch := omega) only [State.schedElem, if_neg hi, State.expandS256, hw]
    all_goals cases hv
  | true =>
    have hw : ∀ j, j < i → s.w64 j = t.w64 j := fun j hj => hW.to64 hv hj _ _
    cases v
    case sha384 => simp (disch := omega) only [State.schedElem, if_neg hi, State.expandS512, hw]
    case sha512 => simp (disch := omega) only [State.schedElem, if_neg hi, State.expandS512, hw]
    all_goals cases hv

theorem schedElem_eq {i : Nat} (hM : BytesAgreeBelow v.B s.M t.M) (hW : AgreeBelow v i s.W t.W) :
    s.schedElem v i = t.schedElem v i := by
  by_cases hi : i < 16
  · exact schedElem_eq_raw hM hi
  · exact schedElem_eq_expand hW hi

theorem roundElems_length (s : State) (v : Variant) (i : Nat) : (s.roundElems v i).length = v.NV := by
  cases v <;> rfl

theorem roundElems_holds (s : State) (v : Variant) (i : Nat) : ∀ e ∈ s.roundElems v i, e.holds v = true := by
  intro e he
  cases v <;> (obtain ⟨x, -, rfl⟩ := List.mem_map.mp he; rfl)

/-- After the same round the working variables agree, whatever stood there. -/
theorem overwrite_roundElems_agree (s : State) (v : Variant) (i : Nat) (xs ys : Vector Elem 8) :
    AgreeBelow v v.NV (overwrite (s.roundElems v i) xs) (overwrite (s.roundElems v i) ys) := by
  have hlen := roundElems_length s v i
  have h := AgreeBelow.overwrite (xs := xs) (ys := ys) (roundElems_holds s v i) (hlen.trans_le v.NV_le)
  rwa [hlen] at h

/-- A round reads one schedule word and the working variables. -/
theorem roundElems_eq {i : Nat} (hi : i < v.R) (hW : AgreeBelow v v.R s.W t.W) (hV : AgreeBelow v v.NV s.V t.V) :
    s.roundElems v i = t.roundElems v i := by
  cases hv : v.isFam64 with
  | false =>
    have hw : s.w32 i = t.w32 i := hW.to32 hv hi _ _
    have hx : ∀ j, j < v.NV → s.v32 j = t.v32 j := fun j hj => hV.to32 hv hj _ _
    cases v
    case sha1 => simp (disch := decide) only [State.roundElems, State.work5, hw, hx]
    case sha224 => simp (disch := decide) only [State.roundElems, State.work8x32, hw, hx]
    case sha256 => simp (disch := decide) only [State.roundElems, State.work8x32, hw, hx]
    all_goals cases hv
  | true =>
    have hw : s.w64 i = t.w64 i := hW.to64 hv hi _ _
    have hx : ∀ j, j < v.NV → s.v64 j = t.v64 j := fun j hj => hV.to64 hv hj _ _
    cases v
    case sha384 => simp (disch := decide) only [State.roundElems, State.work8x64, hw, hx]
    case sha512 => simp (disch := decide) only [State.roundElems, State.work8x64, hw, hx]
    all_goals cases hv

/-- `LDV` copies the Hash State. -/
theorem loadV_agree (hH : AgreeBelow v v.NV s.H t.H) : AgreeBelow v v.NV (loadV v s) (loadV v t) := by
  intro i hi
  have hi8 : i < 8 := hi.trans_le (v.NV_le)
  rw [elemAt_loadV v s hi8, elemAt_loadV v t hi8, if_pos hi, if_pos hi]
  cases hv : v.isFam64 with
  | false =>
    have hh : s.h32 i = t.h32 i := hH.to32 hv hi _ _
    simp [hh, Elem.holds, Variant.isFam32, hv]
  | true =>
    have hh : s.h64 i = t.h64 i := hH.to64 hv hi _ _
    simp [hh, Elem.holds, hv]

/-- `ACC` adds the working variables into the Hash State. -/
theorem accumulate_agree (hH : AgreeBelow v v.NV s.H t.H) (hV : AgreeBelow v v.NV s.V t.V) :
    AgreeBelow v v.NV (accumulate v s) (accumulate v t) := by
  intro i hi
  have hi8 : i < 8 := hi.trans_le (v.NV_le)
  rw [elemAt_accumulate v s hi8, elemAt_accumulate v t hi8, if_pos hi, if_pos hi]
  cases hv : v.isFam64 with
  | false =>
    have hh : s.h32 i = t.h32 i := hH.to32 hv hi _ _
    have hx : s.v32 i = t.v32 i := hV.to32 hv hi _ _
    simp [hh, hx, Elem.holds, Variant.isFam32, hv]
  | true =>
    have hh : s.h64 i = t.h64 i := hH.to64 hv hi _ _
    have hx : s.v64 i = t.v64 i := hV.to64 hv hi _ _
    simp [hh, hx, Elem.holds, hv]

/-- A byte of the Padded Buffer is a function of length and message (R133). -/
theorem padByte_eq_of_runs {len : BitVec 128} {msg : Nat → Byte} (hs : s.Runs v len msg) (ht : t.Runs v len msg)
    {i : Nat} (hi : i < blockCount v len * v.B) : padByte v s i = padByte v t i := by
  have hm : i < len.toNat / 8 → Memory.read s.MSG i = Memory.read t.MSG i :=
    fun h => (hs.msg i h).trans (ht.msg i h).symm
  rw [padByte_eq, padByte_eq, hs.L, ht.L, hs.NBLK, ht.NBLK, if_pos hi, if_pos hi]
  split_ifs with h
  · exact hm h
  all_goals rfl

/-- `PADBLK` fills the block buffer with its block of the Padded Buffer (R134). -/
theorem padBlock_agree {len : BitVec 128} {msg : Nat → Byte} (hs : s.Runs v len msg) (ht : t.Runs v len msg)
    (hj : t.BIDX = s.BIDX) (hb : s.BIDX.toNat < s.NBLK.toNat) :
    BytesAgreeBelow v.B (padBlock v s) (padBlock v t) := by
  intro i hi
  have hB : v.B ≤ 128 := by cases v <;> decide
  have hin : s.BIDX.toNat * v.B + i < blockCount v len * v.B := by
    rw [hs.NBLK] at hb
    calc s.BIDX.toNat * v.B + i < (s.BIDX.toNat + 1) * v.B := by rw [Nat.succ_mul]; omega
      _ ≤ blockCount v len * v.B := Nat.mul_le_mul_right _ hb
  rw [byteAt_padBlock v s (by omega), byteAt_padBlock v t (by omega), if_pos hi, if_pos hi, hj,
    padByte_eq_of_runs hs ht hin]
  exact ⟨_, rfl, rfl⟩

end Writes

/-! ## Two runs alike -/

/-- What two runs at the same position share of the datapath beside `H`: what is still to be read (R44). -/
inductive State.SharesData (v : Variant) (s t : State) : Prop where
  | idle : s.PHASE = phaseIDLE → SharesData v s t
  | pad : s.PHASE = phasePAD → s.T = 0#7 → s.BIDX.toNat < s.NBLK.toNat → SharesData v s t
  | sched : s.PHASE = phaseSCHED → s.T.toNat < v.R → s.BIDX.toNat < s.NBLK.toNat → BytesAgreeBelow v.B s.M t.M →
      AgreeBelow v s.T.toNat s.W t.W → SharesData v s t
  | ldv : s.PHASE = phaseLDV → s.T = 0#7 → s.BIDX.toNat < s.NBLK.toNat → AgreeBelow v v.R s.W t.W → SharesData v s t
  | round : s.PHASE = phaseROUND → s.T.toNat < v.R → s.BIDX.toNat < s.NBLK.toNat → AgreeBelow v v.R s.W t.W →
      AgreeBelow v v.NV s.V t.V → SharesData v s t
  | acc : s.PHASE = phaseACC → s.T = 0#7 → s.BIDX.toNat < s.NBLK.toNat → AgreeBelow v v.NV s.V t.V → SharesData v s t

/-- Two engines run the same variant on the same message and are equally far, whatever else they hold. -/
structure State.Alike (v : Variant) (len : BitVec 128) (msg : Nat → Byte) (s t : State) : Prop where
  left : s.Runs v len msg
  right : t.Runs v len msg
  position : s.KeepsPosition t
  DONE : t.DONE = s.DONE
  hash : AgreeBelow v v.NV s.H t.H
  data : s.SharesData v t

/-- Both engines have a step and are alike after it. -/
def State.StepAlike (v : Variant) (len : BitVec 128) (msg : Nat → Byte) (s t : State) : Prop :=
  ∃ s' t', step s = .next s' ∧ step t = .next t' ∧ s'.Alike v len msg t'

section Alike

variable {v : Variant} {len : BitVec 128} {msg : Nat → Byte} {s t : State}

/-- Micro-operations that leave `H` and the frame of `State.KeepsRest` alone, as all but `PADBLK` and `ACC` do, keep two runs
alike if they take them to the same position and to data they share there. -/
theorem State.Alike.of_keepsRest {s' t' : State} (h : s.Alike v len msg t) (hs : s.nextTick.KeepsRest s')
    (ht : t.nextTick.KeepsRest t') (hHs : s'.H = s.H) (hHt : t'.H = t.H) (hp : s'.KeepsPosition t')
    (hd : s'.SharesData v t') : s'.Alike v len msg t' where
  left := h.left.nextTick.of_frame hs.parameters hs.msg hs.environment
  right := h.right.nextTick.of_frame ht.parameters ht.msg ht.environment
  position := hp
  DONE := ht.flags.DONE.trans (h.DONE.trans hs.flags.DONE.symm)
  hash := by rw [hHs, hHt]; exact h.hash
  data := hd

theorem State.Alike.step_idle (h : s.Alike v len msg t) (hp : s.PHASE = phaseIDLE) : s.StepAlike v len msg t :=
  ⟨s, t, h.left.step_idle hp, h.right.step_idle (h.position.PHASE.trans hp), h⟩

theorem State.Alike.step_pad (h : s.Alike v len msg t) (hp : s.PHASE = phasePAD) (hT : s.T = 0#7)
    (hb : s.BIDX.toNat < s.NBLK.toNat) : s.StepAlike v len msg t := by
  refine ⟨_, _, h.left.step_pad hp hT, h.right.step_pad (h.position.PHASE.trans hp) (h.position.T.trans hT), ?_⟩
  exact {
    left := h.left.nextTick.of_padblk rfl
    right := h.right.nextTick.of_padblk rfl
    position := by constructor <;> simp [h.position.BIDX]
    DONE := h.DONE
    hash := h.hash
    data := .sched rfl v.R_pos hb (padBlock_agree h.left.nextTick h.right.nextTick h.position.BIDX hb)
      fun _ hi => absurd hi (Nat.not_lt_zero _) }

theorem State.Alike.step_sched (h : s.Alike v len msg t) (hp : s.PHASE = phaseSCHED) (hT : s.T.toNat < v.R)
    (hb : s.BIDX.toNat < s.NBLK.toNat) (hM : BytesAgreeBelow v.B s.M t.M) (hW : AgreeBelow v s.T.toNat s.W t.W) :
    s.StepAlike v len msg t := by
  have hT80 : s.T.toNat < 80 := hT.trans_le v.R_le
  have ht := h.right.step_sched (h.position.PHASE.trans hp) (h.position.T ▸ hT)
  have he : s.nextTick.schedElem v s.T.toNat = t.nextTick.schedElem v s.T.toNat := schedElem_eq hM hW
  rw [h.position.T, ← he] at ht
  refine ⟨_, _, h.left.step_sched hp hT, ht, ?_⟩
  obtain ⟨hHs, -, -, hrs⟩ := writeSched_frame s.nextTick v s.T (s.nextTick.schedElem v s.T.toNat)
  obtain ⟨hHt, -, -, hrt⟩ := writeSched_frame t.nextTick v s.T (s.nextTick.schedElem v s.T.toNat)
  have hW' := hW.fileSet hT80 (schedElem_holds s.nextTick v s.T.toNat)
  refine h.of_keepsRest hrs hrt hHs hHt ?_ ?_
  · constructor <;> simp [State.writeSched, h.position.BIDX]
  · by_cases hR : s.T.toNat + 1 = v.R
    · refine .ldv ?_ ?_ ?_ ?_ <;> simp only [State.writeSched, State.nextSched_PHASE, State.nextSched_T,
        State.nextSched_BIDX, State.nextSched_NBLK, State.nextSched_W, if_pos hR]
      · exact hb
      · exact hR ▸ hW'
    · refine .sched ?_ ?_ ?_ ?_ ?_ <;> simp only [State.writeSched, State.nextSched_PHASE, State.nextSched_T,
        State.nextSched_BIDX, State.nextSched_NBLK, State.nextSched_M, State.nextSched_W, if_neg hR, index_succ hT80]
      · omega
      · exact hb
      · exact hM
      · exact hW'

theorem State.Alike.step_ldv (h : s.Alike v len msg t) (hp : s.PHASE = phaseLDV) (hT : s.T = 0#7)
    (hb : s.BIDX.toNat < s.NBLK.toNat) (hW : AgreeBelow v v.R s.W t.W) : s.StepAlike v len msg t := by
  refine ⟨_, _, h.left.step_ldv hp hT, h.right.step_ldv (h.position.PHASE.trans hp) (h.position.T.trans hT), ?_⟩
  have hV : AgreeBelow v v.NV (loadV v s.nextTick) (loadV v t.nextTick) := loadV_agree h.hash
  exact h.of_keepsRest (setV_setSEQ_keepsRest ..) (setV_setSEQ_keepsRest ..) rfl rfl
    (by constructor <;> simp [h.position.BIDX]) (.round rfl v.R_pos hb hW hV)

theorem State.Alike.step_round (h : s.Alike v len msg t) (hp : s.PHASE = phaseROUND) (hT : s.T.toNat < v.R)
    (hb : s.BIDX.toNat < s.NBLK.toNat) (hW : AgreeBelow v v.R s.W t.W) (hV : AgreeBelow v v.NV s.V t.V) :
    s.StepAlike v len msg t := by
  have hT80 : s.T.toNat < 80 := hT.trans_le v.R_le
  have ht := h.right.step_round (h.position.PHASE.trans hp) (h.position.T ▸ hT)
  have he : s.nextTick.roundElems v s.T.toNat = t.nextTick.roundElems v s.T.toNat := roundElems_eq hT hW hV
  rw [h.position.T, ← he] at ht
  refine ⟨_, _, h.left.step_round hp hT, ht, ?_⟩
  have hV' := overwrite_roundElems_agree s.nextTick v s.T.toNat s.V t.V
  generalize s.nextTick.roundElems v s.T.toNat = es at hV' ⊢
  obtain ⟨hHs, -, -, hrs⟩ := setV_nextRound_frame s.nextTick (overwrite es s.V) v s.T
  obtain ⟨hHt, -, -, hrt⟩ := setV_nextRound_frame t.nextTick (overwrite es t.V) v s.T
  refine h.of_keepsRest hrs hrt hHs hHt ?_ ?_
  · constructor <;> simp [h.position.BIDX]
  · by_cases hR : s.T.toNat + 1 = v.R
    · refine .acc ?_ ?_ ?_ ?_ <;> simp only [State.nextRound_PHASE, State.nextRound_T, State.nextRound_BIDX,
        State.nextRound_NBLK, State.nextRound_V, if_pos hR]
      · exact hb
      · exact hV'
    · refine .round ?_ ?_ ?_ ?_ ?_ <;> simp only [State.nextRound_PHASE, State.nextRound_T, State.nextRound_BIDX,
        State.nextRound_NBLK, State.nextRound_W, State.nextRound_V, if_neg hR, index_succ hT80]
      · omega
      · exact hb
      · exact hW
      · exact hV'

theorem State.Alike.step_acc (h : s.Alike v len msg t) (hp : s.PHASE = phaseACC) (hT : s.T = 0#7)
    (hb : s.BIDX.toNat < s.NBLK.toNat) (hV : AgreeBelow v v.NV s.V t.V) : s.StepAlike v len msg t := by
  have hs := h.left.step_acc hp hT
  have ht := h.right.step_acc (h.position.PHASE.trans hp) (h.position.T.trans hT)
  have hH : AgreeBelow v v.NV (accumulate v s.nextTick) (accumulate v t.nextTick) := accumulate_agree h.hash hV
  have hN : t.NBLK.toNat = s.NBLK.toNat := h.right.NBLK.trans h.left.NBLK.symm
  by_cases hlast : s.BIDX.toNat + 1 = s.NBLK.toNat
  · have hlast' : t.BIDX.toNat + 1 = t.NBLK.toNat := by rw [h.position.BIDX, hN, hlast]
    exact ⟨_, _, hs.trans (if_pos hlast), ht.trans (if_pos hlast'), {
      left := h.left.nextTick.of_acc (if_pos hlast)
      right := h.right.nextTick.of_acc (if_pos hlast')
      position := by constructor <;> simp
      DONE := by simp
      hash := hH
      data := .idle rfl }⟩
  · have hlast' : t.BIDX.toNat + 1 ≠ t.NBLK.toNat := by rwa [h.position.BIDX, hN]
    have hnext : (s.BIDX + 1#119).toNat < s.NBLK.toNat := by bv_omega
    exact ⟨_, _, hs.trans (if_neg hlast), ht.trans (if_neg hlast'), {
      left := h.left.nextTick.of_acc (if_neg hlast)
      right := h.right.nextTick.of_acc (if_neg hlast')
      position := by constructor <;> simp [h.position.BIDX]
      DONE := h.DONE
      hash := hH
      data := .pad rfl rfl hnext }⟩

/-- Two runs alike take a step each and stay alike. -/
theorem State.Alike.step (h : s.Alike v len msg t) : s.StepAlike v len msg t := by
  cases h.data with
  | idle hp => exact h.step_idle hp
  | pad hp hT hb => exact h.step_pad hp hT hb
  | sched hp hT hb hM hW => exact h.step_sched hp hT hb hM hW
  | ldv hp hT hb hW => exact h.step_ldv hp hT hb hW
  | round hp hT hb hW hV => exact h.step_round hp hT hb hW hV
  | acc hp hT hb hV => exact h.step_acc hp hT hb hV

/-- Two runs alike are alike after any number of steps. -/
theorem State.Alike.run (k : Nat) (h : s.Alike v len msg t) :
    ∃ s' t', core.run k s = .next s' ∧ core.run k t = .next t' ∧ s'.Alike v len msg t' := by
  induction k generalizing s t with
  | zero => exact ⟨s, t, rfl, rfl, h⟩
  | succ k ih =>
    obtain ⟨s', t', hs, ht, h'⟩ := h.step
    rw [core_run_succ k hs, core_run_succ k ht]
    exact ih h'

/-- Engines alike show the same in every `DOUT` register. -/
theorem State.Alike.dout_eq (h : s.Alike v len msg t) (j : Nat) : s.dout j = t.dout j := by
  have hdigest : doutOf v s j = doutOf v t j := by
    cases hv : v.isFam64 with
    | false =>
      have hh : j < v.NOUT → s.h32 j = t.h32 j := fun hj => h.hash.to32 hv (hj.trans_le v.NOUT_le_NV) _ _
      simp +contextual [doutOf, hv, hh]
    | true =>
      have hh : j / 2 < v.NOUT → s.h64 (j / 2) = t.h64 (j / 2) :=
        fun hj => h.hash.to64 hv (hj.trans_le v.NOUT_le_NV) _ _
      simp +contextual [doutOf, hv, hh]
  simp only [State.dout, h.left.variant, h.right.variant, h.DONE, hdigest]

end Alike

/-! ## The command that starts both -/

section Start

variable {v : Variant} {s t : State}

/-- The state an accepted command of an aligned length in range starts from, the host's turn taken (R115, R117). -/
def State.started (s : State) (v : Variant) : State := ((s.setTurns []).accept v).start v

/-- The `CMD` write of an idle engine starts the invocation. -/
theorem step_startsInvocation (hbusy : s.BUSY = false) (hheld : s.held = none) (hrst : s.RST = false)
    (hturns : s.turns = [.host (.write 0#5 (commandWord v))]) (hlen : s.bitLength.toNat ≤ v.LMAX)
    (halign : s.bitLength.toNat % 8 = 0) : step s = .next (s.started v) := by
  have hover : lengthOverflows v s.bitLength = false := by simpa [lengthOverflows] using hlen
  have hL : (s.setTurns []).bitLength = s.bitLength := rfl
  rw [step_host hturns hheld hrst]
  simp [hostAccess, hostWrite, writeCMD, digestCommand, hbusy, hL, hover, halign, State.started]

/-- A started engine runs its variant on the length and the message it was given. -/
theorem started_runs {len : BitVec 128} {msg : Nat → Byte} (hheld : s.held = none) (hrst : s.RST = false)
    (hL : s.bitLength = len) (hlen : len.toNat ≤ v.LMAX)
    (hmsg : ∀ a, a < len.toNat / 8 → Memory.read s.MSG a = msg a) : (s.started v).Runs v len msg := by
  subst hL
  exact ⟨⟨rfl, hheld, hrst⟩, rfl, rfl, start_NBLK (s := s.setTurns []) hlen, hmsg⟩

theorem started_alike {len : BitVec 128} {msg : Nat → Byte} (hs : (s.started v).Runs v len msg)
    (ht : (t.started v).Runs v len msg) : (s.started v).Alike v len msg (t.started v) where
  left := hs
  right := ht
  position := by constructor <;> simp [State.started, State.start]
  DONE := by simp [State.started, State.start, State.accept]
  hash := loadIV_agree v s.H t.H
  data := .pad rfl rfl (by rw [hs.NBLK]; exact Nat.succ_pos _)

end Start

/-- Settles O54: the accepted command makes the two engines alike, every step keeps them so, and engines alike show the same
`DOUT`. -/
theorem digestDependsOnMessageOnly : Obligations.DigestDependsOnMessageOnly := by
  unfold Obligations.DigestDependsOnMessageOnly
  intro v s₁ s₂ hb₁ hb₂ hh₁ hh₂ hr₁ hr₂ ht₁ ht₂ hL hlen halign hmsg
  have hstep₁ := step_startsInvocation hb₁ hh₁ hr₁ ht₁ hlen halign
  have hstep₂ := step_startsInvocation hb₂ hh₂ hr₂ ht₂ (hL ▸ hlen) (hL ▸ halign)
  have hruns₁ : (s₁.started v).Runs v s₁.bitLength (Memory.read s₁.MSG) :=
    started_runs hh₁ hr₁ rfl hlen fun _ _ => rfl
  have hruns₂ : (s₂.started v).Runs v s₁.bitLength (Memory.read s₁.MSG) :=
    started_runs hh₂ hr₂ hL.symm hlen fun a ha => (hmsg a ha).symm
  rw [core_run_succ _ hstep₁, core_run_succ _ hstep₂]
  obtain ⟨t₁, t₂, hrun₁, hrun₂, h⟩ := (started_alike hruns₁ hruns₂).run (refSteps v s₁.bitLength)
  exact ⟨t₁, t₂, hrun₁, hrun₂, h.dout_eq⟩

end Sys2Proof.Machine
end

-- ==== Proofs: every step keeps the invariant, and no reachable step reads `invalid` (O47, O48, O49) ====
section
/-! The invariant of spec/10_state.md R24 to R30 and R44, in two shapes: the engine is idle (`State.Idle`) or runs an invocation
of a variant (`State.Invocation`). A step goes from one shape to one of them. -/

namespace Sys2Proof

theorem Variant.code_le (v : Variant) : v.code.toNat ≤ 4 := by cases v <;> decide

/-- A block is sixteen words (R4, R5). -/
theorem Variant.B_eq (v : Variant) : v.B = v.wb * 16 := by cases v <;> rfl

theorem Variant.B_le (v : Variant) : v.B ≤ 128 := by cases v <;> decide

end Sys2Proof

namespace Sys2Proof.Machine

open Sys2Proof Host

/-! ## Files filled below an index -/

/-- Below `n` the file holds words of the variant's width. -/
def Filled {m : Nat} (v : Variant) (n : Nat) (xs : Vector Elem m) : Prop := ∀ i, i < n → (elemAt xs i).holds v = true

section Filled

variable {v : Variant} {m n : Nat} {xs ys : Vector Elem m}

theorem Filled.agree (h : Filled v n xs) : AgreeBelow v n xs xs := fun i hi => ⟨rfl, h i hi⟩

theorem AgreeBelow.filled (h : AgreeBelow v n xs ys) : Filled v n xs := fun i hi => (h i hi).2

theorem Filled.fileSet (h : Filled v n xs) (hn : n < m) {e : Elem} (he : e.holds v = true) :
    Filled v (n + 1) (fileSet xs n e) := (h.agree.fileSet hn he).filled

end Filled

/-! ## The two shapes of the invariant -/

/-- A length in range and its block count (R115, R117, R130). -/
def State.LengthInRange (v : Variant) (s : State) : Prop :=
  s.L.toNat ≤ v.LMAX ∧ s.L.toNat % 8 = 0 ∧ s.NBLK.toNat = blockCount v s.L

/-- The parameters and the datapath are as after reset. -/
def State.Fresh (s : State) : Prop :=
  s.VAR = 0#3 ∧ s.L = 0#128 ∧ s.NBLK = 0#119 ∧ s.H = State.reset.H ∧ s.V = State.reset.V ∧ s.W = State.reset.W ∧
    s.M = State.reset.M

/-- The engine is idle: after reset, after a finished invocation or after a length that overflows. -/
structure State.Idle (v : Variant) (s : State) : Prop where
  VAR : s.VAR = v.code
  PHASE : s.PHASE = phaseIDLE
  BIDX : s.BIDX = 0#119
  T : s.T = 0#7
  BUSY : s.BUSY = false
  oneFlag : ¬(s.DONE = true ∧ s.ERR = true)
  length : s.DONE = true → s.LengthInRange v
  hash : s.DONE = true → Filled v v.NV s.H
  error : s.ERR = true → v.LMAX < s.L.toNat
  fresh : s.DONE = false → s.ERR = false → s.Fresh

/-- A position of a running engine and what the datapath beside `H` holds at it (R44, R97). -/
inductive State.HoldsAt (v : Variant) (s : State) : Prop where
  | pad : s.PHASE = phasePAD → s.T = 0#7 → HoldsAt v s
  | sched : s.PHASE = phaseSCHED → s.T.toNat < v.R → (∀ i, i < v.B → (byteAt s.M i).isSome = true) →
      Filled v s.T.toNat s.W → (∀ t, s.T.toNat ≤ t → elemAt s.W t = .invalid) → HoldsAt v s
  | ldv : s.PHASE = phaseLDV → s.T = 0#7 → Filled v v.R s.W → HoldsAt v s
  | round : s.PHASE = phaseROUND → s.T.toNat < v.R → Filled v v.R s.W → Filled v v.NV s.V → HoldsAt v s
  | acc : s.PHASE = phaseACC → s.T = 0#7 → Filled v v.NV s.V → HoldsAt v s

/-- The engine runs an invocation. -/
structure State.Invocation (v : Variant) (s : State) : Prop where
  VAR : s.VAR = v.code
  BUSY : s.BUSY = true
  DONE : s.DONE = false
  ERR : s.ERR = false
  block : s.BIDX.toNat < s.NBLK.toNat
  length : s.LengthInRange v
  hash : Filled v v.NV s.H
  data : s.HoldsAt v

section Shapes

variable {v : Variant} {s : State}

theorem variant?_eq (h : s.VAR = v.code) : s.variant? = some v := by rw [State.variant?, h, ofCode_code]

/-- What is to hold of the latched variant holds of the one whose code `VAR` has. -/
theorem forall_latched {P : Variant → Prop} (hv : s.VAR = v.code) (h : P v) : ∀ v', s.variant? = some v' → P v' := by
  simpa [variant?_eq hv] using h

theorem State.Idle.controlInv (h : s.Idle v) : s.ControlInv where
  variant := h.VAR ▸ v.code_le
  phase := by simp [h.PHASE]
  busy := by simp [h.BUSY, h.PHASE]
  oneFlag := by simpa [h.BUSY] using h.oneFlag
  idle _ := ⟨h.BIDX, h.T⟩
  index := forall_latched h.VAR (by simpa [h.T] using v.R_pos)
  noIndex _ := h.T
  block := by simp [h.BUSY]
  length := forall_latched h.VAR fun hb => h.length (by simpa [h.BUSY] using hb)
  error := forall_latched h.VAR h.error
  fresh _ := h.fresh

theorem State.Idle.dataInv (h : s.Idle v) : s.DataInv where
  hash := forall_latched h.VAR fun hb => h.hash (by simpa [h.BUSY] using hb)
  buffer := by simp +decide [h.PHASE]
  written := by simp +decide [h.PHASE]
  unwritten := by simp +decide [h.PHASE]
  schedule := by simp +decide [h.PHASE]
  working := by simp +decide [h.PHASE]

theorem State.HoldsAt.phase_le (h : s.HoldsAt v) : s.PHASE.toNat ≤ 5 := by cases h <;> simp [*]

theorem State.HoldsAt.not_idle (h : s.HoldsAt v) : s.PHASE ≠ phaseIDLE := by cases h <;> simp +decide [*]

theorem State.HoldsAt.index (h : s.HoldsAt v) : s.T.toNat < v.R := by cases h <;> simp [*, v.R_pos]

theorem State.HoldsAt.noIndex (h : s.HoldsAt v) (hp : s.PHASE = phasePAD ∨ s.PHASE = phaseLDV ∨ s.PHASE = phaseACC) :
    s.T = 0#7 := by
  cases h with
  | pad _ hT | ldv _ hT | acc _ hT => exact hT
  | sched hp' | round hp' => simp +decide [hp'] at hp

theorem State.Invocation.controlInv (h : s.Invocation v) : s.ControlInv where
  variant := h.VAR ▸ v.code_le
  phase := h.data.phase_le
  busy := by simpa [h.BUSY] using h.data.not_idle
  oneFlag := by simp [h.DONE, h.ERR]
  idle hp := absurd hp h.data.not_idle
  index := forall_latched h.VAR h.data.index
  noIndex := h.data.noIndex
  block _ := h.block
  length := forall_latched h.VAR fun _ => h.length
  error := by simp [h.ERR]
  fresh := by simp [h.BUSY]

theorem State.Invocation.dataInv (h : s.Invocation v) : s.DataInv where
  hash := forall_latched h.VAR fun _ => h.hash
  buffer := forall_latched h.VAR fun hp => by
    cases h.data with
    | sched _ _ hM => exact hM
    | pad hp' | ldv hp' | round hp' | acc hp' => simp +decide [hp'] at hp
  written := forall_latched h.VAR fun hp => by
    cases h.data with
    | sched _ _ _ hW => exact hW
    | pad hp' | ldv hp' | round hp' | acc hp' => simp +decide [hp'] at hp
  unwritten hp := by
    cases h.data with
    | sched _ _ _ _ hW => exact hW
    | pad hp' | ldv hp' | round hp' | acc hp' => simp +decide [hp'] at hp
  schedule := forall_latched h.VAR fun hp => by
    cases h.data with
    | ldv _ _ hW | round _ _ hW => exact hW
    | pad hp' | sched hp' | acc hp' => simp +decide [hp'] at hp
  working := forall_latched h.VAR fun hp => by
    cases h.data with
    | round _ _ _ hV | acc _ _ hV => exact hV
    | pad hp' | sched hp' | ldv hp' => simp +decide [hp'] at hp

/-- The latched variant of a state that meets the invariant. -/
theorem State.Inv.latched (h : s.Inv) : ∃ v : Variant, s.VAR = v.code := by
  obtain ⟨v, hv⟩ := ofCode_of_le h.control.variant
  exact ⟨v, code_of_ofCode hv⟩

/-- A state that meets the invariant with `BUSY = 0` is idle. -/
theorem State.Inv.idle (h : s.Inv) (hb : s.BUSY = false) : ∃ v, s.Idle v := by
  obtain ⟨v, hv⟩ := h.latched
  have hv' := variant?_eq hv
  obtain ⟨hc, hd, -, -, -⟩ := h
  have hp : s.PHASE = phaseIDLE := by simpa [hb] using hc.busy
  obtain ⟨hj, ht⟩ := hc.idle hp
  obtain ⟨-, -, hde⟩ := hc.oneFlag
  exact ⟨v, hv, hp, hj, ht, hb, hde, fun h => hc.length v hv' (.inr h), fun h => hd.hash v hv' (.inr h),
    hc.error v hv', hc.fresh hb⟩

/-- A position outside `IDLE`, in a state that meets the invariant. -/
theorem State.Inv.holdsAt (h : s.Inv) (hv : s.VAR = v.code) (hp : s.PHASE ≠ phaseIDLE) : s.HoldsAt v := by
  obtain ⟨hc, hd, -, -, -⟩ := h
  have hv := variant?_eq hv
  have hphase : s.PHASE = phasePAD ∨ s.PHASE = phaseSCHED ∨ s.PHASE = phaseLDV ∨ s.PHASE = phaseROUND ∨
      s.PHASE = phaseACC := by
    have hle := hc.phase
    bv_omega
  rcases hphase with hp | hp | hp | hp | hp
  · exact .pad hp (hc.noIndex (.inl hp))
  · exact .sched hp (hc.index v hv) (hd.buffer v hv hp) (hd.written v hv hp) (hd.unwritten hp)
  · exact .ldv hp (hc.noIndex (.inr (.inl hp))) (hd.schedule v hv (.inl hp))
  · exact .round hp (hc.index v hv) (hd.schedule v hv (.inr hp)) (hd.working v hv (.inl hp))
  · exact .acc hp (hc.noIndex (.inr (.inr hp))) (hd.working v hv (.inr hp))

/-- A state that meets the invariant outside `IDLE` runs an invocation. -/
theorem State.Inv.invocation (h : s.Inv) (hp : s.PHASE ≠ phaseIDLE) : ∃ v, s.Invocation v := by
  obtain ⟨v, hv⟩ := h.latched
  have hdata := h.holdsAt hv hp
  have hv' := variant?_eq hv
  obtain ⟨hc, hd, -, -, -⟩ := h
  have hb : s.BUSY = true := hc.busy.mpr hp
  obtain ⟨hbd, hbe, -⟩ := hc.oneFlag
  exact ⟨v, hv, hb, by simpa [hb] using hbd, by simpa [hb] using hbe, hc.block hb, hc.length v hv' (.inl hb),
    hd.hash v hv' (.inl hb), hdata⟩

end Shapes

/-! ## What every instruction leaves to the host -/

/-- An instruction leaves `MSG` and `rst` alone, and holds a legal command word or what was held before. -/
theorem exec_keeps_hostSide {i : Instr} {s t : State} (h : exec i s = .next t) :
    t.MSG = s.MSG ∧ t.RST = s.RST ∧ (t.held = s.held ∨ ∃ v, t.held = some (commandWord v)) := by
  cases hi : i.isMicroOp with
  | false =>
    obtain ⟨v, rfl⟩ := digestInstr_of_not_micro hi
    rw [exec_digest] at h
    obtain ⟨-, rfl⟩ | ⟨-, -, rfl⟩ | ⟨-, -, -, rfl⟩ := digestCommand_next h
    · exact ⟨rfl, rfl, .inr ⟨v, rfl⟩⟩
    · exact ⟨rfl, rfl, .inl rfl⟩
    · exact ⟨rfl, rfl, .inl rfl⟩
  | true =>
    cases i with
    | digestSha1 | digestSha224 | digestSha256 | digestSha384 | digestSha512 => cases hi
    | padblk | ldv => cases h; exact ⟨rfl, rfl, .inl rfl⟩
    | wld32 | wld64 | wexpSha1 | wexpS256 | wexpS512 => cases h; simp [State.writeSched]
    | rndSha1Ch | rndSha1Par1 | rndSha1Maj | rndSha1Par2 => cases h; simp [State.roundSha1]
    | rndS256 | rndS512 => cases h; simp
    | acc v => obtain ⟨-, rfl⟩ | ⟨-, rfl⟩ := execAcc_next h <;> exact ⟨rfl, rfl, .inl rfl⟩

/-- After an instruction, with `rst` released, the host's side of the invariant holds; the engine's is left to show. -/
theorem State.Inv.of_exec {i : Instr} {s t : State} (h : s.Inv) (hr : s.RST = false) (ht : exec i s = .next t)
    (hc : t.ControlInv) (hd : t.DataInv) : t.Inv := by
  obtain ⟨hmsg, hrst, hheld⟩ := exec_keeps_hostSide ht
  refine ⟨hc, hd, hmsg ▸ h.msg, fun w hw => ?_, fun hr' => by simp [hrst, hr] at hr'⟩
  obtain he | ⟨v, he⟩ := hheld
  · exact h.held w (he ▸ hw)
  · exact ⟨v, Option.some.inj (hw.symm.trans he)⟩

/-! ## Micro-operations -/

section Micro

variable {v : Variant} {s t : State}

theorem loadV_filled (h : Filled v v.NV s.H) : Filled v v.NV (loadV v s) := (loadV_agree h.agree).filled

theorem accumulate_filled (hH : Filled v v.NV s.H) (hV : Filled v v.NV s.V) : Filled v v.NV (accumulate v s) :=
  (accumulate_agree hH.agree hV.agree).filled

theorem loadIV_filled (v : Variant) (h : Vector Elem 8) : Filled v v.NV (loadIV v h) := (loadIV_agree v h h).filled

theorem padBlock_isSome (v : Variant) (s : State) {i : Nat} (hi : i < v.B) : (byteAt (padBlock v s) i).isSome = true := by
  simp [byteAt_padBlock v s (hi.trans_le v.B_le), hi]

/-- Parameters and flags as before, in the same block: the invocation goes on at a position whose data is there. -/
theorem State.Invocation.of_frame (h : s.Invocation v) (hq : s.KeepsParameters t) (hf : s.KeepsFlags t) (hH : t.H = s.H)
    (hj : t.BIDX = s.BIDX) (hd : t.HoldsAt v) : t.Invocation v where
  VAR := hq.VAR.trans h.VAR
  BUSY := hf.BUSY.trans h.BUSY
  DONE := hf.DONE.trans h.DONE
  ERR := hf.ERR.trans h.ERR
  block := by rw [hj, hq.NBLK]; exact h.block
  length := by rw [State.LengthInRange, hq.L, hq.NBLK]; exact h.length
  hash := hH ▸ h.hash
  data := hd

theorem State.Invocation.execPadblk (h : s.Invocation v) (ht : execPadblk v s = .next t) : t.Invocation v := by
  cases ht
  exact h.of_frame ⟨rfl, rfl, rfl⟩ ⟨rfl, rfl, rfl⟩ rfl rfl (.sched rfl v.R_pos (fun i hi => padBlock_isSome v s hi)
    (fun _ hi => absurd hi (Nat.not_lt_zero _)) fun i _ => elemAt_uniformFile 80 i)

theorem State.Invocation.writeSched (h : s.Invocation v) (hT : s.T.toNat < v.R)
    (hM : ∀ i, i < v.B → (byteAt s.M i).isSome = true) (hW : Filled v s.T.toNat s.W)
    (hW' : ∀ t, s.T.toNat ≤ t → elemAt s.W t = .invalid) {e : Elem} (he : e.holds v = true) :
    (s.writeSched v s.T e).Invocation v := by
  have hT80 : s.T.toNat < 80 := hT.trans_le v.R_le
  obtain ⟨hH, -, -, hrest⟩ := writeSched_frame s v s.T e
  have hfilled : Filled v (s.T.toNat + 1) (s.writeSched v s.T e).W := by
    simpa [State.writeSched] using hW.fileSet hT80 he
  refine h.of_frame hrest.parameters hrest.flags hH (by simp [State.writeSched]) ?_
  by_cases hR : s.T.toNat + 1 = v.R
  · exact .ldv (by simp [State.writeSched, hR]) (by simp [State.writeSched, hR]) (hR ▸ hfilled)
  · have hT' : (s.writeSched v s.T e).T.toNat = s.T.toNat + 1 := by
      simp only [State.writeSched, State.nextSched_T, if_neg hR, index_succ hT80]
    refine .sched (by simp [State.writeSched, hR]) (by omega) (by simpa [State.writeSched] using hM) (hT' ▸ hfilled) ?_
    intro i hi
    rw [writeSched_W s v s.T e hT80, if_neg (by omega)]
    exact hW' i (by omega)

theorem State.Invocation.execLdv (h : s.Invocation v) (hW : Filled v v.R s.W) (ht : execLdv v s = .next t) :
    t.Invocation v := by
  cases ht
  have hrest := setV_setSEQ_keepsRest s (loadV v s) phaseROUND 0#7
  exact h.of_frame hrest.parameters hrest.flags rfl rfl (.round rfl v.R_pos hW (loadV_filled h.hash))

theorem State.Invocation.round (h : s.Invocation v) (hT : s.T.toNat < v.R) (hW : Filled v v.R s.W) {x : Vector Elem 8}
    (hx : Filled v v.NV x) : ((s.setV x).nextRound v s.T).Invocation v := by
  have hT80 : s.T.toNat < 80 := hT.trans_le v.R_le
  obtain ⟨hH, -, -, hrest⟩ := setV_nextRound_frame s x v s.T
  refine h.of_frame hrest.parameters hrest.flags hH (by simp) ?_
  by_cases hR : s.T.toNat + 1 = v.R
  · exact .acc (by simp [hR]) (by simp [hR]) (by simpa using hx)
  · have hT' : ((s.setV x).nextRound v s.T).T.toNat = s.T.toNat + 1 := by
      simp only [State.nextRound_T, if_neg hR, index_succ hT80]
    exact .round (by simp [hR]) (by omega) (by simpa using hW) (by simpa using hx)

/-- `ACC` ends the invocation or goes on to the next block (R200). -/
theorem State.Invocation.execAcc (h : s.Invocation v) (hV : Filled v v.NV s.V) (ht : execAcc v s = .next t) :
    t.Invocation v ∨ t.Idle v := by
  have hH : Filled v v.NV (accumulate v s) := accumulate_filled h.hash hV
  obtain ⟨-, rfl⟩ | ⟨hlast, rfl⟩ := execAcc_next ht
  · exact .inr {
      VAR := h.VAR
      PHASE := rfl
      BIDX := rfl
      T := rfl
      BUSY := rfl
      oneFlag := by simp [h.ERR]
      length := fun _ => h.length
      hash := fun _ => hH
      error := by simp [h.ERR]
      fresh := by simp }
  · have hblock := h.block
    have hnext : (s.BIDX + 1#119).toNat < s.NBLK.toNat := by bv_omega
    exact .inl ⟨h.VAR, h.BUSY, h.DONE, h.ERR, hnext, h.length, hH, .pad rfl rfl⟩

theorem State.Invocation.stepWord_eq (h : s.Invocation v) {p : BitVec 3} (hp : s.PHASE = p) :
    s.stepWord = packStepWord v.code p s.T := by rw [State.stepWord, h.VAR, hp]

/-- The micro-operation a running engine's step word decodes to takes it on, or ends the invocation. -/
theorem State.Invocation.exec {i : Instr} (h : s.Invocation v) (hd : decodeStepWord s.stepWord = .ok i)
    (ht : exec i s = .next t) : t.Invocation v ∨ t.Idle v := by
  cases h.data with
  | pad hp hT =>
    rw [h.stepWord_eq hp, hT, decodeStepWord_pad] at hd
    cases hd
    exact .inl (h.execPadblk ht)
  | sched hp hT hM hW hW' =>
    rw [h.stepWord_eq hp, decodeStepWord_sched] at hd
    obtain ⟨i', hd', ht'⟩ := exec_decodeSched s hT
    cases hd.symm.trans hd'
    cases ht.symm.trans ht'
    exact .inl (h.writeSched hT hM hW hW' (schedElem_holds s v _))
  | ldv hp hT hW =>
    rw [h.stepWord_eq hp, hT, decodeStepWord_ldv] at hd
    cases hd
    exact .inl (h.execLdv hW ht)
  | round hp hT hW hV =>
    rw [h.stepWord_eq hp, decodeStepWord_round] at hd
    obtain ⟨i', hd', ht'⟩ := exec_decodeRound s hT
    cases hd.symm.trans hd'
    cases ht.symm.trans ht'
    exact .inl (h.round hT hW (overwrite_roundElems_agree s v s.T.toNat s.V s.V).filled)
  | acc hp hT hV =>
    rw [h.stepWord_eq hp, hT, decodeStepWord_acc] at hd
    cases hd
    exact h.execAcc hV ht

end Micro

/-! ## The steps -/

section Steps

variable {s t : State}

/-- An engine step keeps the invariant. -/
theorem State.Inv.micro {i : Instr} (h : s.Inv) (hr : s.RST = false) (hp : s.PHASE ≠ phaseIDLE)
    (hd : decodeStepWord s.stepWord = .ok i) (ht : exec i s = .next t) : t.Inv := by
  obtain ⟨v, hv⟩ := h.invocation hp
  obtain h' | h' := hv.exec hd ht
  · exact h.of_exec hr ht h'.controlInv h'.dataInv
  · exact h.of_exec hr ht h'.controlInv h'.dataInv

/-- A command whose length overflows leaves the engine idle with `ERR` (R241). -/
theorem State.Idle.overflow {u v : Variant} (h : s.Idle u) (hL : v.LMAX < s.bitLength.toNat) :
    ((s.accept v).raiseLengthOverflow).Idle v where
  VAR := rfl
  PHASE := h.PHASE
  BIDX := h.BIDX
  T := h.T
  BUSY := h.BUSY
  oneFlag := by simp [State.accept]
  length := by simp [State.accept]
  hash := by simp [State.accept]
  error _ := hL
  fresh := by simp

/-- A command with an aligned length in range starts an invocation (R117). -/
theorem start_invocation {v : Variant} (hL : s.bitLength.toNat ≤ v.LMAX) (hL8 : s.bitLength.toNat % 8 = 0) :
    ((s.accept v).start v).Invocation v where
  VAR := rfl
  BUSY := rfl
  DONE := rfl
  ERR := rfl
  block := by rw [start_NBLK hL]; exact Nat.succ_pos _
  length := ⟨hL, hL8, start_NBLK hL⟩
  hash := loadIV_filled v s.H
  data := .pad rfl rfl

/-- A command keeps the invariant. -/
theorem State.Inv.digestCommand {v : Variant} (h : s.Inv) (hr : s.RST = false) (ht : digestCommand v s = .next t) :
    t.Inv := by
  have he : Machine.exec (digestInstr v) s = .next t := (exec_digest v s).trans ht
  obtain ⟨-, rfl⟩ | ⟨hb, hL, rfl⟩ | ⟨-, hL, hL8, rfl⟩ := digestCommand_next ht
  · exact h.hold hr v
  · obtain ⟨u, hu⟩ := h.idle hb
    exact h.of_exec hr he (hu.overflow hL).controlInv (hu.overflow hL).dataInv
  · exact h.of_exec hr he (start_invocation hL hL8).controlInv (start_invocation hL hL8).dataInv

theorem afterReset_idle (s : State) : s.afterReset.Idle .sha1 where
  VAR := rfl
  PHASE := rfl
  BIDX := rfl
  T := rfl
  BUSY := rfl
  oneFlag := by simp [State.reset]
  length := by simp [State.reset]
  hash := by simp [State.reset]
  error := by simp [State.reset]
  fresh _ _ := ⟨rfl, rfl, rfl, rfl, rfl, rfl, rfl⟩

theorem State.Inv.afterReset (h : Memory.wf s.MSG = true) : s.afterReset.Inv :=
  ⟨(afterReset_idle s).controlInv, (afterReset_idle s).dataInv, h, fun _ hw => (by cases hw), fun _ => rfl⟩

theorem State.Inv.setLEN (h : s.Inv) (n : BitVec 5) (x : Word32) : (s.setLEN n x).Inv :=
  h.of_same (by constructor <;> simp) (by constructor <;> simp) (by constructor <;> simp) (by constructor <;> simp)
    (by simpa using h.msg) (by simpa using h.held) (by simpa using h.dropped)

theorem State.Inv.logRead (h : s.Inv) (n : BitVec 5) (x : Word32) : (s.logRead n x).Inv :=
  h.of_same ⟨rfl, rfl, rfl, rfl⟩ ⟨rfl, rfl, rfl⟩ ⟨rfl, rfl, rfl⟩ ⟨rfl, rfl, rfl⟩ h.msg h.held h.dropped

theorem State.Inv.placeByte (h : s.Inv) (a : BitVec 125) (b : Byte) : (s.placeByte a b).Inv :=
  h.of_same ⟨rfl, rfl, rfl, rfl⟩ ⟨rfl, rfl, rfl⟩ ⟨rfl, rfl, rfl⟩ ⟨rfl, rfl, rfl⟩ (Memory.wf_write b h.msg a.isLt) h.held
    h.dropped

end Steps

/-- Settles O47: the state after reset is idle, and nothing is placed or held in it. -/
theorem invariantAtReset : Obligations.InvariantAtReset := State.Inv.afterReset (s := State.reset) rfl

/-- Settles O48: by the cases of a step. An engine step takes a running invocation on or ends it, an accepted command starts
one or leaves the engine idle, the release of `rst` gives the state after reset, and every other step leaves the engine
alone. -/
theorem stepKeepsInvariant : Obligations.StepKeepsInvariant := by
  unfold Obligations.StepKeepsInvariant
  intro s t h hst
  cases step_cases hst with
  | assertRst ts => exact (h.setTurns ts).assertReset
  | releaseRst ts => exact State.Inv.afterReset h.msg
  | noEffect ts => exact h.setTurns ts
  | readInReset ts n => exact ((h.setTurns ts).logRead n _).nextTick
  | idle ts => exact h.setTurns ts
  | micro ts i _ hr hp hd _ ht => exact (h.setTurns ts).nextTick.micro hr hp hd ht
  | command ts _ v _ hr _ _ ht => exact (h.setTurns ts).release.digestCommand hr ht
  | discard ts => exact (h.setTurns ts).release
  | len ts n x => exact (h.setTurns ts).setLEN n x
  | read ts n => exact (h.setTurns ts).logRead n _
  | place ts a b => exact (h.setTurns ts).placeByte a b

/-- Every reachable state meets the invariant. -/
theorem Reachable.inv {s : State} (h : Reachable s) : s.Inv := by
  induction h with
  | reset => exact invariantAtReset
  | step s t _ hst ih => exact stepKeepsInvariant s t ih hst
  | environment s ts _ ih => exact ih.setTurns ts

/-! ## The elements a step reads -/

section Sources

variable {v : Variant} {s : State} {t : BitVec 7} {i : Instr}

/-- The rows of R96 with `PHASE = 2` read the block buffer or schedule words below their index. -/
theorem sourcesValid_of_decodeSched (hd : decodeSched v t = .ok i) (hM : ∀ j, j < v.B → (byteAt s.M j).isSome = true)
    (hW : Filled v t.toNat s.W) : sourcesValid i s := by
  by_cases h16 : t.toNat < 16
  · have hbytes : ∀ j, j < v.wb → (byteAt s.M (v.wb * t.toNat + j)).isSome = true := fun j hj => by
      refine hM _ ?_
      calc v.wb * t.toNat + j < v.wb * (t.toNat + 1) := by rw [Nat.mul_succ]; omega
        _ ≤ v.wb * 16 := Nat.mul_le_mul_left _ h16
        _ = v.B := v.B_eq.symm
    cases v
    all_goals
      simp only [decodeSched, if_pos h16] at hd
      cases hd
      exact hbytes
  · have hback : ∀ d, 0 < d → d ≤ 16 → (elemAt s.W (t.toNat - d)).holds v = true := fun d _ _ => hW _ (by omega)
    cases v
    all_goals
      simp only [decodeSched, if_neg h16] at hd
      split_ifs at hd
      cases hd
      rintro d (rfl | rfl | rfl | rfl) <;> exact hback _ (by decide) (by decide)

/-- The rows of R96 with `PHASE = 4` read one schedule word and the working variables. -/
theorem sourcesValid_of_decodeRound (hd : decodeRound v t = .ok i) (hW : (elemAt s.W t.toNat).holds v = true)
    (hV : Filled v v.NV s.V) : sourcesValid i s := by
  cases v
  all_goals
    simp only [decodeRound] at hd
    split_ifs at hd
    all_goals
      cases hd
      exact ⟨hW, hV⟩

/-- The micro-operation of a running engine reads elements that hold words of the width of the variant. -/
theorem State.Invocation.sourcesValid (h : s.Invocation v) (hd : decodeStepWord s.stepWord = .ok i) : sourcesValid i s := by
  cases h.data with
  | pad hp hT =>
    rw [h.stepWord_eq hp, hT, decodeStepWord_pad] at hd
    cases hd
    trivial
  | sched hp hT hM hW =>
    rw [h.stepWord_eq hp, decodeStepWord_sched] at hd
    exact sourcesValid_of_decodeSched hd hM hW
  | ldv hp hT hW =>
    rw [h.stepWord_eq hp, hT, decodeStepWord_ldv] at hd
    cases hd
    exact h.hash
  | round hp hT hW hV =>
    rw [h.stepWord_eq hp, decodeStepWord_round] at hd
    exact sourcesValid_of_decodeRound hd (hW _ hT) hV
  | acc hp hT hV =>
    rw [h.stepWord_eq hp, hT, decodeStepWord_acc] at hd
    cases hd
    exact fun k hk => ⟨h.hash k hk, hV k hk⟩

end Sources

/-- Settles O49: a reachable state outside `IDLE` runs an invocation, and its data is what the step reads. -/
theorem noReachableStepReadsInvalid : Obligations.NoReachableStepReadsInvalid := by
  unfold Obligations.NoReachableStepReadsInvalid
  intro s i hs hp hd
  obtain ⟨v, hv⟩ := hs.inv.invocation hp
  exact hv.sourcesValid hd

end Sys2Proof.Machine
end

-- ==== Proofs: the state after reset, and what the host sees (O7, O56) ====
section
/-! The registers after reset (spec/10_state.md R48), and that host reads show the flags, the variant, the length registers and
the digest alone (R46). -/

namespace Sys2Proof.Machine

open Sys2Proof

theorem dout_of_not_done {s : State} (h : s.DONE = false) (j : Nat) : s.dout j = 0#32 := by simp [State.dout, h]

theorem byteAt_uniformFile (n i : Nat) : byteAt (uniformFile n none) i = none := by
  unfold byteAt
  rw [uniformFile_getElem?]
  split <;> rfl

theorem reset_hostRead (n : BitVec 5) : State.reset.hostRead n = 0#32 := by
  have hdout : State.reset.dout (n.toNat - 8) = 0#32 := dout_of_not_done rfl _
  unfold State.hostRead
  rw [hdout]
  split_ifs <;> rfl

/-- Settles O7: each register of R48 in turn, and no element of a file of copies of `invalid` has a value. -/
theorem resetState : Obligations.ResetState := by
  unfold Obligations.ResetState
  refine ⟨rfl, rfl, rfl, rfl, rfl, rfl, rfl, rfl, rfl, rfl, rfl, rfl, rfl, ?_, ?_, ?_, ?_, rfl, reset_hostRead⟩
  · exact elemAt_uniformFile 8
  · exact elemAt_uniformFile 8
  · exact elemAt_uniformFile 80
  · exact byteAt_uniformFile 128

/-! ## What a host read depends on -/

section Observation

variable {v : Variant} {s t : State}

/-- The output selector shows the digest words alone (R203, R204). -/
theorem doutOf_eq_of_agree (h : AgreeBelow v v.NOUT s.H t.H) (j : Nat) : doutOf v s j = doutOf v t j := by
  cases hv : v.isFam64 with
  | false =>
    have hh : j < v.NOUT → s.h32 j = t.h32 j := fun hj => h.to32 hv hj _ _
    simp +contextual [doutOf, hv, hh]
  | true =>
    have hh : j / 2 < v.NOUT → s.h64 (j / 2) = t.h64 (j / 2) := fun hj => h.to64 hv hj _ _
    simp +contextual [doutOf, hv, hh]

theorem dout_eq_of_agree (hD : t.DONE = s.DONE) (hV : t.VAR = s.VAR)
    (hH : s.DONE = true → ∃ v, s.variant? = some v ∧ AgreeBelow v v.NOUT s.H t.H) (j : Nat) : t.dout j = s.dout j := by
  cases hd : s.DONE with
  | false => rw [dout_of_not_done hd, dout_of_not_done (hD.trans hd)]
  | true =>
    obtain ⟨v, hv, h⟩ := hH hd
    have hv' : t.variant? = some v := by rw [← hv, State.variant?, State.variant?, hV]
    simp only [State.dout, hD, hd, hv, hv', if_true, doutOf_eq_of_agree h j]

theorem inDigest_eq (hV : t.VAR = s.VAR) (j : Nat) : t.inDigest j = s.inDigest j := by
  simp only [State.inDigest, State.variant?, hV]

end Observation

/-- Settles O56: `STATUS` is made of the flags and `VAR`, a `DOUT` register of the digest words, and a read while `rst` is
asserted of those and the counter. -/
theorem hostSeesOnlyFlagsLengthAndDigest : Obligations.HostSeesOnlyFlagsLengthAndDigest := by
  unfold Obligations.HostSeesOnlyFlagsLengthAndDigest
  intro s t hB hD hE hV h0 h1 h2 h3 hH n
  have hstatus : t.status = s.status := by simp only [State.status, hV, hE, hD, hB]
  have hdout : ∀ j, t.dout j = s.dout j := dout_eq_of_agree hD hV fun hd => by
    obtain ⟨v, hv, h⟩ := hH hd
    exact ⟨v, hv, fun i hi => ⟨(h i hi).2.symm, (h i hi).1⟩⟩
  have hread : t.hostRead n = s.hostRead n := by simp only [State.hostRead, hstatus, hdout, h0, h1, h2, h3]
  exact ⟨hread, fun ht => by simp only [State.readInReset, hread, hD, inDigest_eq hV, ht]⟩

end Sys2Proof.Machine
end

-- ==== Proofs: the constant tables are digits of roots of primes (O19, O20) ====
section
/-! The tables of spec/10_state.md R37 to R43 against the first eighty primes. -/

namespace Sys2Proof.Machine

open Sys2Proof

/-! ## The first primes -/

/-- The first 80 primes. -/
def firstPrimes : List Nat :=
  [2, 3, 5, 7, 11, 13, 17, 19, 23, 29, 31, 37, 41, 43, 47, 53, 59, 61, 67, 71, 73, 79, 83, 89, 97, 101, 103, 107, 109, 113] ++
  [127, 131, 137, 139, 149, 151, 157, 163, 167, 173, 179, 181, 191, 193, 197, 199, 211, 223, 227, 229, 233, 239, 241] ++
  [251, 257, 263, 269, 271, 277, 281, 283, 293, 307, 311, 313, 317, 331, 337, 347, 349, 353, 359, 367, 373, 379, 383] ++
  [389, 397, 401, 409]

/-- The numbers below `n` that satisfy `p` are the first `Nat.count p n` of them all. -/
theorem filter_range_eq_map_nth (p : Nat → Prop) [DecidablePred p] (n : Nat) :
    (List.range n).filter (p ·) = (List.range (Nat.count p n)).map (Nat.nth p) := by
  induction n with
  | zero => rfl
  | succ n ih =>
    by_cases hn : p n
    · simp [List.range_succ, Nat.count_succ, ih, hn, Nat.nth_count hn]
    · simp [List.range_succ, Nat.count_succ, ih, hn]

/-- A number below `21 ^ 2` is prime if no smaller number below 21 divides it. -/
theorem prime_iff_of_lt {n : Nat} (hn : n < 441) : n.Prime ↔ 2 ≤ n ∧ ∀ m ∈ List.range' 2 19, m < n → ¬m ∣ n := by
  constructor
  · intro hp
    refine ⟨hp.two_le, fun m hmem hlt hdvd => ?_⟩
    obtain rfl | rfl := (Nat.dvd_prime hp).mp hdvd
    · exact absurd hmem (by decide)
    · exact absurd hlt (Nat.lt_irrefl _)
  · rintro ⟨h2n, hdiv⟩
    refine Nat.prime_def_le_sqrt.mpr ⟨h2n, fun m h2 hsqrt => ?_⟩
    have hsq : m * m ≤ n := Nat.le_sqrt.mp hsqrt
    exact hdiv m (List.mem_range'_1.mpr ⟨h2, by nlinarith⟩) (by nlinarith)

/-- The list holds every prime below 410. -/
theorem primes_below_410 : (List.range 410).filter (Nat.Prime ·) = firstPrimes := by
  have htrial : ∀ n ∈ List.range 410,
      decide n.Prime = decide (2 ≤ n ∧ ∀ m ∈ List.range' 2 19, m < n → ¬m ∣ n) := fun n hn =>
    decide_eq_decide.mpr (prime_iff_of_lt ((List.mem_range.mp hn).trans (by decide)))
  rw [List.filter_congr htrial]
  decide

theorem nth_prime_eq {i : Nat} (hi : i < 80) : Nat.nth Nat.Prime i = firstPrimes.getD i 0 := by
  have hmap := (filter_range_eq_map_nth Nat.Prime 410).symm.trans primes_below_410
  have hcount : Nat.count Nat.Prime 410 = 80 := by simpa [firstPrimes] using congrArg List.length hmap
  simp [← hmap, hcount, hi]

/-! ## Digits of roots -/

/-- `x` is the first `w` bits of the fractional part of the `k`-th root of `p`, as a number, where the root is below 8. -/
abbrev IsRootFraction (k w p x : Nat) : Prop :=
  ∃ c, c < 8 ∧ (c * 2 ^ w + x) ^ k ≤ p * 2 ^ (k * w) ∧ p * 2 ^ (k * w) < (c * 2 ^ w + x + 1) ^ k

theorem IV_2_isRootFraction :
    ∀ i, i < 8 → IsRootFraction 2 32 (firstPrimes.getD i 0) (IV_2.getD i 0#32).toNat := by decide

theorem IV_3_isRootFraction :
    ∀ i, i < 8 → IsRootFraction 2 64 (firstPrimes.getD (8 + i) 0) (IV_3.getD i 0#64).toNat := by decide

theorem IV_4_isRootFraction :
    ∀ i, i < 8 → IsRootFraction 2 64 (firstPrimes.getD i 0) (IV_4.getD i 0#64).toNat := by decide

theorem k256_isRootFraction :
    ∀ t, t < 64 → IsRootFraction 3 32 (firstPrimes.getD t 0) (k256 t).toNat := by decide

theorem k512_isRootFraction :
    ∀ t, t < 80 → IsRootFraction 3 64 (firstPrimes.getD t 0) (k512 t).toNat := by decide

theorem IV_1_eq_low_half : ∀ i, i < 8 → IV_1.getD i 0#32 = (IV_3.getD i 0#64).setWidth 32 := by decide

theorem k256_eq_high_half : ∀ t, t < 64 → k256 t = (k512 t).extractLsb' 32 32 := by decide

/-- Settles O19: each table against the list of the first primes, entry by entry. -/
theorem initialHashValuesAreSquareRoots : Obligations.InitialHashValuesAreSquareRoots := by
  unfold Obligations.InitialHashValuesAreSquareRoots
  refine ⟨rfl, rfl, rfl, rfl, fun i hi => ?_, fun i hi => ?_, fun i hi => ?_, IV_1_eq_low_half⟩ <;>
    rw [nth_prime_eq (by omega)]
  · exact (IV_2_isRootFraction i hi).imp fun _ h => h.2
  · exact (IV_3_isRootFraction i hi).imp fun _ h => h.2
  · exact (IV_4_isRootFraction i hi).imp fun _ h => h.2

/-- Settles O20: each table against the list of the first primes, entry by entry. -/
theorem roundConstantsAreCubeRoots : Obligations.RoundConstantsAreCubeRoots := by
  unfold Obligations.RoundConstantsAreCubeRoots
  refine ⟨rfl, rfl, fun t ht => ?_, fun t ht => ?_, k256_eq_high_half⟩ <;> rw [nth_prime_eq (by omega)]
  · exact (k256_isRootFraction t ht).imp fun _ h => h.2
  · exact (k512_isRootFraction t ht).imp fun _ h => h.2

end Sys2Proof.Machine
end

-- ==== Proofs: the message space and the length registers are the host's (O57, O58) ====
section
/-! What an instruction leaves to the host (spec/20_memory.md R60, R62; 10_state.md R34): the message space and the length
registers. -/

namespace Sys2Proof.Machine

open Sys2Proof Host

/-! ## The frame of every instruction -/

section Frames

variable {s t : State} {i : Instr}

theorem writeSched_keepsRest (s : State) (v : Variant) (t : BitVec 7) (e : Elem) : s.KeepsRest (s.writeSched v t e) := by
  obtain ⟨-, -, -, h⟩ := writeSched_frame s v t e
  exact h

theorem setV_nextRound_keepsRest (s : State) (x : Vector Elem 8) (v : Variant) (t : BitVec 7) :
    s.KeepsRest ((s.setV x).nextRound v t) := by
  obtain ⟨-, -, -, h⟩ := setV_nextRound_frame s x v t
  exact h

/-- What no micro-operation touches: the latched parameters, the length registers, `rst` and the host's side. -/
structure State.KeepsOutside (s t : State) : Prop where
  parameters : s.KeepsParameters t
  len : s.KeepsLEN t
  environment : s.KeepsEnvironment t

theorem State.KeepsRest.outside (h : s.KeepsRest t) : s.KeepsOutside t := ⟨h.parameters, h.len, h.environment⟩

theorem exec_micro_keepsOutside (hi : i.isMicroOp = true) (h : exec i s = .next t) : s.KeepsOutside t := by
  cases i with
  | digestSha1 | digestSha224 | digestSha256 | digestSha384 | digestSha512 => cases hi
  | padblk => cases h; exact ⟨⟨rfl, rfl, rfl⟩, ⟨rfl, rfl, rfl, rfl⟩, ⟨rfl, rfl, rfl, rfl, rfl⟩⟩
  | ldv => cases h; exact (setV_setSEQ_keepsRest ..).outside
  | wld32 | wld64 | wexpSha1 | wexpS256 | wexpS512 => cases h; exact (writeSched_keepsRest ..).outside
  | rndSha1Ch | rndSha1Par1 | rndSha1Maj | rndSha1Par2 | rndS256 | rndS512 =>
    cases h; exact (setV_nextRound_keepsRest ..).outside
  | acc v =>
    obtain ⟨-, rfl⟩ | ⟨-, rfl⟩ := execAcc_next h <;>
      exact ⟨⟨rfl, rfl, rfl⟩, ⟨rfl, rfl, rfl, rfl⟩, ⟨rfl, rfl, rfl, rfl, rfl⟩⟩

theorem exec_MSG (h : exec i s = .next t) : t.MSG = s.MSG := by
  obtain ⟨hmsg, -, -⟩ := exec_keeps_hostSide h
  exact hmsg

theorem digestCommand_keepsLEN {v : Variant} (h : digestCommand v s = .next t) : s.KeepsLEN t := by
  obtain ⟨-, rfl⟩ | ⟨-, -, rfl⟩ | ⟨-, -, -, rfl⟩ := digestCommand_next h <;> exact ⟨rfl, rfl, rfl, rfl⟩

theorem exec_keepsLEN (h : exec i s = .next t) : s.KeepsLEN t := by
  cases hi : i.isMicroOp with
  | false =>
    obtain ⟨v, rfl⟩ := digestInstr_of_not_micro hi
    exact digestCommand_keepsLEN (exec_digest v s ▸ h)
  | true => exact (exec_micro_keepsOutside hi h).len

end Frames

/-- Settles O57: a command and a micro-operation write the engine's registers alone. -/
theorem noInstructionWritesMSGOrLEN : Obligations.NoInstructionWritesMSGOrLEN := by
  unfold Obligations.NoInstructionWritesMSGOrLEN
  intro i s t h
  exact ⟨fun a => by rw [exec_MSG h], exec_keepsLEN h⟩

/-! ## Steps and the message space -/

/-- A step leaves `MSG` as it is, or is the host's placing of one byte. -/
theorem step_MSG {s t : State} (h : step s = .next t) :
    t.MSG = s.MSG ∨ ∃ ts x b, s.turns = .host (.place x b) :: ts ∧ t.MSG = Memory.write s.MSG x.toNat b := by
  cases step_cases h with
  | micro ts i _ _ _ _ _ hex => exact .inl ((exec_MSG hex).trans rfl)
  | command ts w v _ _ _ _ hex => exact .inl ((exec_MSG ((exec_digest v _).trans hex)).trans rfl)
  | place ts x b _ hts => exact .inr ⟨ts, x, b, hts, rfl⟩
  | len ts n x => exact .inl (by simp)
  | assertRst | releaseRst | noEffect | readInReset | idle | discard | read => exact .inl rfl

/-- Settles O58: the one step that changes `MSG` is the placing of a byte, which changes no other address. -/
theorem onlyTheHostChangesMSG : Obligations.OnlyTheHostChangesMSG := by
  unfold Obligations.OnlyTheHostChangesMSG
  intro s t a hwf hst hne
  obtain hmsg | ⟨ts, x, b, hts, hmsg⟩ := step_MSG hst
  · exact absurd (by rw [hmsg]) hne
  · have hread := Memory.read_writeFrom x.toNat b hwf a
    rw [← hmsg] at hread
    have hxa : a = x.toNat := by
      by_contra hax
      exact hne (hread.trans (if_neg hax))
    exact ⟨ts, x, b, hts, hxa.symm, hread.trans (if_pos hxa)⟩

end Sys2Proof.Machine
end

-- ==== Proofs: the control flow depends on no data (O55) ====
section
/-! The next position of the engine (spec/20_memory.md R75; 45_sequencer.md R216) is made of position, variant and number of
blocks. -/

namespace Sys2Proof

/-! ## The step word of the engine selects a micro-operation -/

section Decode

variable {v : Variant} {t : BitVec 7} {i j : Instr} {w : BitVec 13}

theorem decodeSched_isMicroOp (h : decodeSched v t = .ok i) : i.isMicroOp = true := by
  cases v
  all_goals
    simp only [decodeSched] at h
    split_ifs at h <;> cases h <;> rfl

theorem decodeRound_isMicroOp (h : decodeRound v t = .ok i) : i.isMicroOp = true := by
  cases v
  all_goals
    simp only [decodeRound] at h
    split_ifs at h <;> cases h <;> rfl

theorem decodeUnindexed_isMicroOp (hj : j.isMicroOp = true) (h : decodeUnindexed j t = .ok i) : i.isMicroOp = true := by
  unfold decodeUnindexed at h
  split at h <;> cases h
  exact hj

/-- A step word decodes to no command (R95). -/
theorem decodeStepWord_isMicroOp (h : decodeStepWord w = .ok i) : i.isMicroOp = true := by
  simp only [decodeStepWord] at h
  split at h
  · cases h
  split at h
  · cases h
  · split_ifs at h
    · exact decodeUnindexed_isMicroOp rfl h
    · exact decodeSched_isMicroOp h
    · exact decodeUnindexed_isMicroOp rfl h
    · exact decodeRound_isMicroOp h
    · exact decodeUnindexed_isMicroOp rfl h

end Decode

end Sys2Proof

namespace Sys2Proof.Machine

open Sys2Proof Host

/-! ## The control flow -/

/-- Two engines agree on position, variant, number of blocks and flags. -/
structure State.SameControl (s t : State) : Prop where
  PHASE : t.PHASE = s.PHASE
  BIDX : t.BIDX = s.BIDX
  T : t.T = s.T
  VAR : t.VAR = s.VAR
  NBLK : t.NBLK = s.NBLK
  BUSY : t.BUSY = s.BUSY
  DONE : t.DONE = s.DONE
  ERR : t.ERR = s.ERR

section Control

variable {s t s' t' : State} {i : Instr}

theorem State.SameControl.writeSched (h : s.SameControl t) (v : Variant) (k : BitVec 7) (e e' : Elem) :
    (s.writeSched v k e).SameControl (t.writeSched v k e') := by
  obtain ⟨hP, hB, hT, hV, hN, hbusy, hdone, herr⟩ := h
  constructor <;> simp [State.writeSched, *]

theorem State.SameControl.round (h : s.SameControl t) (x y : Vector Elem 8) (v : Variant) (k : BitVec 7) :
    ((s.setV x).nextRound v k).SameControl ((t.setV y).nextRound v k) := by
  obtain ⟨hP, hB, hT, hV, hN, hbusy, hdone, herr⟩ := h
  constructor <;> simp [*]

theorem State.SameControl.execAcc {v : Variant} (h : s.SameControl t) (hs : execAcc v s = .next s')
    (ht : execAcc v t = .next t') : s'.SameControl t' := by
  obtain ⟨hP, hB, hT, hV, hN, hbusy, hdone, herr⟩ := h
  obtain ⟨hlast, rfl⟩ | ⟨hlast, rfl⟩ := execAcc_next hs <;> obtain ⟨hlast', rfl⟩ | ⟨hlast', rfl⟩ := execAcc_next ht
  · exact ⟨rfl, rfl, rfl, hV, hN, rfl, rfl, herr⟩
  · exact absurd (by rwa [hB, hN]) hlast'
  · exact absurd (by rwa [hB, hN] at hlast') hlast
  · exact ⟨rfl, by simp [hB], rfl, hV, hN, hbusy, hdone, herr⟩

/-- A micro-operation takes engines that agree on the control to states that agree on it. -/
theorem exec_micro_sameControl (hi : i.isMicroOp = true) (h : s.SameControl t) (hs : exec i s = .next s')
    (ht : exec i t = .next t') : s'.SameControl t' := by
  cases i with
  | digestSha1 | digestSha224 | digestSha256 | digestSha384 | digestSha512 => cases hi
  | padblk | ldv => cases hs; cases ht; exact ⟨rfl, h.BIDX, rfl, h.VAR, h.NBLK, h.BUSY, h.DONE, h.ERR⟩
  | wld32 | wld64 | wexpSha1 | wexpS256 | wexpS512 => cases hs; cases ht; exact h.writeSched ..
  | rndSha1Ch | rndSha1Par1 | rndSha1Maj | rndSha1Par2 | rndS256 | rndS512 => cases hs; cases ht; exact h.round ..
  | acc v => exact h.execAcc hs ht

theorem State.SameControl.nextTick (h : s.SameControl t) : s.nextTick.SameControl t.nextTick :=
  ⟨h.PHASE, h.BIDX, h.T, h.VAR, h.NBLK, h.BUSY, h.DONE, h.ERR⟩

theorem State.engineAlone.of_environment (h : s.engineAlone) (he : s.KeepsEnvironment t) : t.engineAlone := by
  obtain ⟨hturns, hheld, hrst⟩ := h
  exact ⟨he.turns.trans hturns, he.held.trans hheld, he.RST.trans hrst⟩

theorem State.engineAlone.step_idle (h : s.engineAlone) (hp : s.PHASE = phaseIDLE) : step s = .next s := by
  obtain ⟨hturns, hheld, hrst⟩ := h
  exact Machine.step_idle hturns hheld hrst hp

/-- The engine alone, outside `IDLE`, steps by the micro-operation of its step word (R215). -/
theorem engineAlone_step_next (h : s.engineAlone) (hp : s.PHASE ≠ phaseIDLE) (hst : step s = .next s') :
    ∃ i, decodeStepWord s.stepWord = .ok i ∧ exec i s.nextTick = .next s' := by
  obtain ⟨hturns, hheld, hrst⟩ := h
  rw [step_engine hturns (.inl hheld) hrst, engineTurn, if_neg hp] at hst
  split at hst
  · exact ⟨_, ‹_›, hst⟩
  · cases hst

/-- Two engines alone that agree on the control step alike. -/
theorem State.SameControl.step (h : s.SameControl t) (hs : s.engineAlone) (ht : t.engineAlone)
    (hst : step s = .next s') : ∃ t', step t = .next t' ∧ s'.SameControl t' ∧ t'.engineAlone := by
  by_cases hp : s.PHASE = phaseIDLE
  · cases (hs.step_idle hp).symm.trans hst
    exact ⟨t, ht.step_idle (h.PHASE.trans hp), h, ht⟩
  · obtain ⟨i, hd, hex⟩ := engineAlone_step_next hs hp hst
    have hi := decodeStepWord_isMicroOp hd
    obtain ⟨t', hex'⟩ := exec_micro_next hi t.nextTick
    have hd' : decodeStepWord t.stepWord = .ok i := by rw [← hd, State.stepWord, State.stepWord, h.VAR, h.PHASE, h.T]
    have ht' : t.nextTick.engineAlone := ht
    exact ⟨t', (step_micro ht (h.PHASE ▸ hp) hd').trans hex', exec_micro_sameControl hi h.nextTick hex hex',
      ht'.of_environment (exec_micro_keepsOutside hi hex').environment⟩

end Control

/-- Settles O55: the step word and the next position are made of the control alone. -/
theorem controlFlowIgnoresData : Obligations.ControlFlowIgnoresData := by
  unfold Obligations.ControlFlowIgnoresData
  intro s₁ s₂ t₁ hs₁ hs₂ hP hB hT hV hN hbusy hdone herr hst
  obtain ⟨t₂, hst₂, h, halone⟩ := State.SameControl.step ⟨hP, hB, hT, hV, hN, hbusy, hdone, herr⟩ hs₁ hs₂ hst
  exact ⟨t₂, hst₂, h.PHASE, h.BIDX, h.T, h.VAR, h.NBLK, h.BUSY, h.DONE, h.ERR, halone⟩

end Sys2Proof.Machine
end

-- ==== Proofs: an invocation reads each message index once (O53) ====
section
/-! A running invocation, step by step (spec/45_sequencer.md R216 to R218), and the message indices it reads (20_memory.md
R69). -/

namespace Sys2Proof.Machine

open Sys2Proof Host

/-! ## One step of a running invocation -/

section Advance

variable {v : Variant} {s t : State}

/-- What the micro-operation of a running engine does, position by position (R96, R216). -/
inductive State.Advances (v : Variant) (s : State) : State → Prop where
  | padblk (t : State) : s.PHASE = phasePAD → execPadblk v s = .next t → Advances v s t
  | sched (e : Elem) : s.PHASE = phaseSCHED → s.T.toNat < v.R → Advances v s (s.writeSched v s.T e)
  | ldv (t : State) : s.PHASE = phaseLDV → execLdv v s = .next t → Advances v s t
  | round (x : Vector Elem 8) : s.PHASE = phaseROUND → s.T.toNat < v.R → Advances v s ((s.setV x).nextRound v s.T)
  | acc (t : State) : s.PHASE = phaseACC → execAcc v s = .next t → Advances v s t

/-- The step word of a running engine is that of a micro-operation, which advances it. -/
theorem State.Invocation.advances (h : s.Invocation v) :
    ∃ i t, decodeStepWord s.stepWord = .ok i ∧ Machine.exec i s = .next t ∧ s.Advances v t := by
  cases h.data with
  | pad hp hT => exact ⟨.padblk v, _, by rw [h.stepWord_eq hp, hT, decodeStepWord_pad], rfl, .padblk _ hp rfl⟩
  | sched hp hT =>
    obtain ⟨i, hd, hex⟩ := exec_decodeSched s hT
    exact ⟨i, _, by rw [h.stepWord_eq hp, decodeStepWord_sched, hd], hex, .sched _ hp hT⟩
  | ldv hp hT => exact ⟨.ldv v, _, by rw [h.stepWord_eq hp, hT, decodeStepWord_ldv], rfl, .ldv _ hp rfl⟩
  | round hp hT =>
    obtain ⟨i, hd, hex⟩ := exec_decodeRound s hT
    exact ⟨i, _, by rw [h.stepWord_eq hp, decodeStepWord_round, hd], hex, .round _ hp hT⟩
  | acc hp hT =>
    obtain ⟨t, hex⟩ := exec_micro_next (i := .acc v) rfl s
    exact ⟨.acc v, t, by rw [h.stepWord_eq hp, hT, decodeStepWord_acc], hex, .acc t hp hex⟩

theorem State.HoldsAt.nextTick (h : s.HoldsAt v) : s.nextTick.HoldsAt v := by
  cases h with
  | pad hp hT => exact .pad hp hT
  | sched hp hT hM hW hW' => exact .sched hp hT hM hW hW'
  | ldv hp hT hW => exact .ldv hp hT hW
  | round hp hT hW hV => exact .round hp hT hW hV
  | acc hp hT hV => exact .acc hp hT hV

theorem State.Invocation.nextTick (h : s.Invocation v) : s.nextTick.Invocation v :=
  h.of_frame ⟨rfl, rfl, rfl⟩ ⟨rfl, rfl, rfl⟩ rfl rfl h.data.nextTick

/-- A step of a running engine that is alone advances the invocation, or ends it, and keeps its parameters and message. -/
theorem State.Invocation.step {len : BitVec 128} {msg : Nat → Byte} (h : s.Invocation v) (hr : s.Runs v len msg) :
    ∃ t, step s = .next t ∧ s.nextTick.Advances v t ∧ t.Runs v len msg ∧ (t.Invocation v ∨ t.Idle v) := by
  obtain ⟨i, t, hd, hex, hadv⟩ := h.nextTick.advances
  obtain ⟨hparam, -, henv⟩ := exec_micro_keepsOutside (decodeStepWord_isMicroOp hd) hex
  have hmsg : s.nextTick.KeepsMSG t := fun a => by rw [exec_MSG hex]
  exact ⟨t, (step_micro hr.alone h.data.not_idle hd).trans hex, hadv, hr.nextTick.of_frame hparam hmsg henv,
    h.nextTick.exec hd hex⟩

/-! ## The steps left -/

/-- The block index does not wrap below the number of blocks. -/
theorem BIDX_succ (hb : s.BIDX.toNat < s.NBLK.toNat) : (s.BIDX + 1#119).toNat = s.BIDX.toNat + 1 := by bv_omega

theorem stepsLeft_idle (h : s.PHASE = phaseIDLE) : stepsLeft v s = 0 := if_pos h

/-- Every step of a running engine uses up one of the steps left (R217, R218). -/
theorem State.Advances.stepsLeft (h : s.Advances v t) (hb : s.BIDX.toNat < s.NBLK.toNat) :
    stepsLeft v t + 1 = stepsLeft v s := by
  have hR := v.R_le
  cases h with
  | padblk _ hp ht =>
    cases ht
    simp +decide [Machine.stepsLeft, stepsLeftInBlock, hp]
    omega
  | sched e hp hT =>
    have hT' := index_succ (hT.trans_le hR)
    by_cases hlast : s.T.toNat + 1 = v.R <;>
      simp +decide [Machine.stepsLeft, stepsLeftInBlock, State.writeSched, hp, hlast, hT'] <;> omega
  | ldv _ hp ht =>
    cases ht
    simp +decide [Machine.stepsLeft, stepsLeftInBlock, hp]
    omega
  | round x hp hT =>
    have hT' := index_succ (hT.trans_le hR)
    by_cases hlast : s.T.toNat + 1 = v.R <;>
      simp +decide [Machine.stepsLeft, stepsLeftInBlock, hp, hlast, hT'] <;> omega
  | acc _ hp ht =>
    obtain ⟨hlast, rfl⟩ | ⟨hlast, rfl⟩ := execAcc_next ht
    · have hblocks : s.NBLK.toNat - s.BIDX.toNat - 1 = 0 := by omega
      simp +decide [Machine.stepsLeft, stepsLeftInBlock, hp, hblocks]
    · have hblocks : s.NBLK.toNat - s.BIDX.toNat - 1 = (s.NBLK.toNat - (s.BIDX.toNat + 1) - 1) + 1 := by omega
      simp +decide [Machine.stepsLeft, stepsLeftInBlock, hp, BIDX_succ hb, hblocks, Nat.succ_mul]

/-- A running engine that is alone ends its invocation after exactly the steps left, and what every one of its steps keeps
holds at the end. -/
theorem State.Invocation.run {len : BitVec 128} {msg : Nat → Byte} {P : State → Prop}
    (htick : ∀ s, P s → P s.nextTick) (hadvance : ∀ s t, s.BIDX.toNat < s.NBLK.toNat → s.Advances v t → P s → P t)
    (h : s.Invocation v) (hr : s.Runs v len msg) (hs : P s) :
    ∃ t, core.run (stepsLeft v s) s = .next t ∧ t.Idle v ∧ t.Runs v len msg ∧ P t := by
  generalize hk : stepsLeft v s = k
  induction k generalizing s with
  | zero =>
    obtain ⟨t, -, hadv, -, -⟩ := h.step hr
    have hleft : stepsLeft v t + 1 = stepsLeft v s := hadv.stepsLeft h.block
    omega
  | succ k ih =>
    obtain ⟨t, hst, hadv, hrt, ht⟩ := h.step hr
    have hleft : stepsLeft v t + 1 = stepsLeft v s := hadv.stepsLeft h.block
    have hPt := hadvance s.nextTick t h.block hadv (htick s hs)
    rw [core_run_succ k hst]
    obtain ht | ht := ht
    · exact ih ht hrt hPt (by omega)
    · have hk0 : k = 0 := by rw [stepsLeft_idle ht.PHASE] at hleft; omega
      exact ⟨t, by rw [hk0]; rfl, ht, hrt, hPt⟩

end Advance

/-! ## The indices read -/

/-- The message indices below `n` in the first `k` bytes of the Padded Buffer, in ascending order. -/
def indicesRead (n k : Nat) : List Nat := (List.Ico 0 k).filter (· < n)

theorem indicesRead_append {n k m : Nat} (h : k ≤ m) :
    indicesRead n k ++ (List.Ico k m).filter (· < n) = indicesRead n m := by
  rw [indicesRead, ← List.filter_append, List.Ico.append_consecutive (Nat.zero_le k) h, indicesRead]

theorem indicesRead_all {n k : Nat} (h : n ≤ k) : indicesRead n k = List.range n := by
  rw [indicesRead, List.Ico.filter_lt, Nat.min_eq_right h, List.Ico.zero_bot]

/-- `PADBLK` reads the message indices of its block (R69). -/
theorem padReads_eq_filter_Ico {v : Variant} {s : State} (hb : s.BIDX.toNat < s.NBLK.toNat) :
    padReads v s = (List.Ico (s.BIDX.toNat * v.B) ((s.BIDX.toNat + 1) * v.B)).filter (· < s.msgBytes) := by
  have hlen : (s.BIDX.toNat + 1) * v.B - s.BIDX.toNat * v.B = v.B := by rw [Nat.succ_mul]; omega
  rw [padReads, List.Ico, hlen]
  refine List.filter_congr fun i hi => ?_
  have hend : i < s.padEnd v := calc
    i < s.BIDX.toNat * v.B + v.B := (List.mem_range'_1.mp hi).2
    _ = (s.BIDX.toNat + 1) * v.B := (Nat.succ_mul ..).symm
    _ ≤ s.padEnd v := Nat.mul_le_mul_right _ hb
  simp [hend]

/-- The blocks whose `PADBLK` is done, in an invocation that is running or has just ended. -/
def State.blocksPadded (s : State) : Nat :=
  if s.PHASE = phaseIDLE then s.NBLK.toNat else if s.PHASE = phasePAD then s.BIDX.toNat else s.BIDX.toNat + 1

/-- After the reads `pre` the invocation has read the message indices of the blocks padded so far. -/
def State.HasRead (v : Variant) (pre : List Nat) (s : State) : Prop :=
  s.msgReads = pre ++ indicesRead s.msgBytes (s.blocksPadded * v.B)

section Reads

variable {v : Variant} {pre : List Nat} {s t : State}

theorem State.HasRead.of_keeps (h : s.HasRead v pre) (hreads : t.msgReads = s.msgReads) (hL : t.L = s.L)
    (hpad : t.blocksPadded = s.blocksPadded) : t.HasRead v pre := by
  rw [State.HasRead, hreads, State.msgBytes, hL, hpad]
  exact h

theorem State.HasRead.padblk (h : s.HasRead v pre) (hp : s.PHASE = phasePAD) (hb : s.BIDX.toNat < s.NBLK.toNat)
    (ht : execPadblk v s = .next t) : t.HasRead v pre := by
  cases ht
  have hs : s.msgReads = pre ++ indicesRead s.msgBytes (s.BIDX.toNat * v.B) := by
    simpa +decide [State.HasRead, State.blocksPadded, hp] using h
  have hle : s.BIDX.toNat * v.B ≤ (s.BIDX.toNat + 1) * v.B := Nat.mul_le_mul_right _ (Nat.le_succ _)
  calc s.msgReads ++ padReads v s
      = pre ++ (indicesRead s.msgBytes (s.BIDX.toNat * v.B) ++ padReads v s) := by rw [hs, List.append_assoc]
    _ = pre ++ indicesRead s.msgBytes ((s.BIDX.toNat + 1) * v.B) := by rw [padReads_eq_filter_Ico hb, indicesRead_append hle]

theorem State.HasRead.acc (h : s.HasRead v pre) (hp : s.PHASE = phaseACC) (hb : s.BIDX.toNat < s.NBLK.toNat)
    (ht : execAcc v s = .next t) : t.HasRead v pre := by
  obtain ⟨hlast, rfl⟩ | ⟨hlast, rfl⟩ := execAcc_next ht
  · exact h.of_keeps rfl rfl (by simp +decide [State.blocksPadded, hp, hlast])
  · exact h.of_keeps rfl rfl (by simp +decide [State.blocksPadded, hp, BIDX_succ hb])

/-- Every step of a running engine keeps what it says it has read. -/
theorem State.Advances.hasRead (ha : s.Advances v t) (hb : s.BIDX.toNat < s.NBLK.toNat) (h : s.HasRead v pre) :
    t.HasRead v pre := by
  cases ha with
  | padblk _ hp ht => exact h.padblk hp hb ht
  | sched e hp =>
    have hrest := writeSched_keepsRest s v s.T e
    refine h.of_keeps hrest.msgReads hrest.parameters.L ?_
    by_cases hlast : s.T.toNat + 1 = v.R <;> simp +decide [State.blocksPadded, State.writeSched, hp, hlast]
  | ldv _ hp ht =>
    cases ht
    exact h.of_keeps rfl rfl (by simp +decide [State.blocksPadded, hp])
  | round x hp =>
    have hrest := setV_nextRound_keepsRest s x v s.T
    refine h.of_keeps hrest.msgReads hrest.parameters.L ?_
    by_cases hlast : s.T.toNat + 1 = v.R <;> simp +decide [State.blocksPadded, hp, hlast]
  | acc _ hp ht => exact h.acc hp hb ht

/-- The padded message holds the message (R132). -/
theorem msgBytes_le_blocks (v : Variant) (len : BitVec 128) : len.toNat / 8 ≤ blockCount v len * v.B := by
  have hB : 0 < v.B := by cases v <;> decide
  have hdiv := Nat.lt_div_mul_add (a := len.toNat / 8 + v.LB) hB
  rw [blockCount, Nat.succ_mul]
  omega

theorem stepsLeft_started {len : BitVec 128} {msg : Nat → Byte} (hr : (s.started v).Runs v len msg) :
    stepsLeft v (s.started v) = refSteps v len := by
  have hpos : 0 < blockCount v len := Nat.succ_pos _
  have hleft : stepsLeft v (s.started v) = ((s.started v).NBLK.toNat - 0 - 1) * (2 * v.R + 3) + (2 * v.R + 3) := rfl
  rw [hleft, hr.NBLK, Nat.sub_zero, ← Nat.add_one_mul, Nat.sub_add_cancel hpos, refSteps]

theorem started_hasRead (s : State) (v : Variant) : (s.started v).HasRead v s.msgReads := by
  simp +decide [State.HasRead, State.started, State.start, State.accept, State.blocksPadded, indicesRead]

end Reads

/-- Settles O53: the invariant is that the record holds the message indices of the blocks padded so far; at the end these
are all blocks, and they hold the whole message. -/
theorem invocationReadsMessageOnce : Obligations.InvocationReadsMessageOnce := by
  unfold Obligations.InvocationReadsMessageOnce
  intro v s hbusy hheld hrst hturns hlen halign
  have hr : (s.started v).Runs v s.bitLength (Memory.read s.MSG) := started_runs hheld hrst rfl hlen fun _ _ => rfl
  have hinv : (s.started v).Invocation v := start_invocation (s := s.setTurns []) hlen halign
  obtain ⟨t, hrun, hidle, hrt, hread⟩ := hinv.run (P := State.HasRead v s.msgReads)
    (fun _ h => h) (fun _ _ hb hadv => hadv.hasRead hb) hr (started_hasRead s v)
  refine ⟨s.started v, t, step_startsInvocation hbusy hheld hrst hturns hlen halign, stepsLeft_started hr ▸ hrun, ?_⟩
  have hpad : t.blocksPadded = blockCount v s.bitLength := (if_pos hidle.PHASE).trans hrt.NBLK
  have hbytes : t.msgBytes = s.bitLength.toNat / 8 := by simp only [State.msgBytes, hrt.L]
  calc t.msgReads = s.msgReads ++ indicesRead t.msgBytes (t.blocksPadded * v.B) := hread
    _ = s.msgReads ++ List.range (s.bitLength.toNat / 8) := by
      rw [hpad, hbytes, indicesRead_all (msgBytes_le_blocks v _)]

end Sys2Proof.Machine
end

-- ==== Proofs: the encodings and the decode tables (O1 to O6) ====
section
/-! The encodings of spec/30_encoding.md: the legal command words (R91, R92), the rows of the step word (R95 to R97), and that the
decoder and the encoder are inverse to each other on the well-formed instructions. -/

namespace Sys2Proof

/-! ## Command words -/

section Command

variable {w : BitVec 32} {v : Variant}

/-- A command word is its four fields. -/
theorem packCommand_fields (w : BitVec 32) :
    packCommand (w.extractLsb' 8 24) (w.extractLsb' 4 4) (w.extractLsb' 3 1) (w.extractLsb' 0 3) = w := by
  rw [packCommand, BitVec.extractLsb'_append_extractLsb'_eq_extractLsb' (by rfl),
    BitVec.extractLsb'_append_extractLsb'_eq_extractLsb' (by rfl),
    BitVec.extractLsb'_append_extractLsb'_eq_extractLsb' (by rfl), BitVec.extractLsb'_eq_self]

theorem digestInstr_wf (v : Variant) : (digestInstr v).wf = true := by cases v <;> rfl

theorem encode_digestInstr (v : Variant) : encode (digestInstr v) = .command (commandWord v) := by cases v <;> rfl

/-- A command word is that of a variant or it is rejected (R94). -/
theorem eq_commandWord_or_reserved (w : BitVec 32) :
    (∃ v, w = commandWord v) ∨ decodeCommand w = .error .reservedCommand := by
  unfold decodeCommand
  split
  case isTrue hfields =>
    obtain ⟨hzero, hop, hz3⟩ := hfields
    split
    case h_1 v hv => exact .inl ⟨v, by rw [← packCommand_fields w, hzero, hop, hz3, code_of_ofCode hv, commandWord]⟩
    case h_2 => exact .inr rfl
  case isFalse => exact .inr rfl

/-- The word of each command, and no other (R92). -/
theorem decodeCommand_eq_digestInstr_iff : decodeCommand w = .ok (digestInstr v) ↔ w = commandWord v := by
  refine ⟨fun h => ?_, fun h => by rw [h, decodeCommand_commandWord]⟩
  obtain ⟨u, rfl⟩ | herr := eq_commandWord_or_reserved w
  · rw [decodeCommand_commandWord] at h
    simpa [encode_digestInstr] using congrArg encode (Except.ok.inj h)
  · cases herr.symm.trans h

end Command

/-! ## Ranges of the rows of R96 -/

section Ranges

variable {v : Variant}

theorem inRange_iff {lo hi : Nat} {t : BitVec 7} : inRange lo hi t = true ↔ lo ≤ t.toNat ∧ t.toNat ≤ hi := by simp [inRange]

theorem isFam64_iff_code : v.isFam64 = true ↔ 3 ≤ v.code.toNat := by cases v <;> decide

theorem isFam32_iff_code : v.isFam32 = true ↔ v.code.toNat ≤ 2 := by cases v <;> decide

theorem isS256_iff_code : v.isS256 = true ↔ 1 ≤ v.code.toNat ∧ v.code.toNat ≤ 2 := by cases v <;> decide

theorem code_toNat_eq_zero_iff : v.code.toNat = 0 ↔ v = .sha1 := by cases v <;> decide

end Ranges

/-! ## The rows of the step word, phase by phase -/

section Rows

variable {v : Variant} {t : BitVec 7} {i j : Instr} {w : BitVec 13}

theorem decodeUnindexed_eq_ok_iff : decodeUnindexed j t = .ok i ↔ t = 0#7 ∧ i = j := by
  unfold decodeUnindexed
  split
  case isTrue h => simp [h, eq_comm]
  case isFalse h => simp [h]

/-- The five rows of R96 with `PHASE = 2`. -/
theorem decodeSched_eq_ok_iff : decodeSched v t = .ok i ↔
    (v.code.toNat ≤ 2 ∧ t.toNat ≤ 15 ∧ i = .wld32 v t) ∨
    (3 ≤ v.code.toNat ∧ t.toNat ≤ 15 ∧ i = .wld64 v t) ∨
    (v.code.toNat = 0 ∧ 16 ≤ t.toNat ∧ t.toNat ≤ 79 ∧ i = .wexpSha1 t) ∨
    (1 ≤ v.code.toNat ∧ v.code.toNat ≤ 2 ∧ 16 ≤ t.toNat ∧ t.toNat ≤ 63 ∧ i = .wexpS256 v t) ∨
    (3 ≤ v.code.toNat ∧ 16 ≤ t.toNat ∧ t.toNat ≤ 79 ∧ i = .wexpS512 v t) := by
  cases v
  all_goals
    simp only [decodeSched, Variant.code]
    split_ifs
    all_goals grind

/-- The six rows of R96 with `PHASE = 4`. -/
theorem decodeRound_eq_ok_iff : decodeRound v t = .ok i ↔
    (v.code.toNat = 0 ∧ t.toNat ≤ 19 ∧ i = .rndSha1Ch t) ∨
    (v.code.toNat = 0 ∧ 20 ≤ t.toNat ∧ t.toNat ≤ 39 ∧ i = .rndSha1Par1 t) ∨
    (v.code.toNat = 0 ∧ 40 ≤ t.toNat ∧ t.toNat ≤ 59 ∧ i = .rndSha1Maj t) ∨
    (v.code.toNat = 0 ∧ 60 ≤ t.toNat ∧ t.toNat ≤ 79 ∧ i = .rndSha1Par2 t) ∨
    (1 ≤ v.code.toNat ∧ v.code.toNat ≤ 2 ∧ t.toNat ≤ 63 ∧ i = .rndS256 v t) ∨
    (3 ≤ v.code.toNat ∧ t.toNat ≤ 79 ∧ i = .rndS512 v t) := by
  cases v
  all_goals
    simp only [decodeRound, Variant.code]
    split_ifs
    all_goals grind

theorem decodeUnindexed_of_ne (h : t ≠ 0#7) : decodeUnindexed j t = .error .nonzeroIndex := if_neg h

/-- The `SCHED` rows end at the rounds of the variant (R97). -/
theorem decodeSched_of_ge (h : v.R ≤ t.toNat) : decodeSched v t = .error .indexBeyondRounds := by
  cases v
  all_goals
    simp only [Variant.R] at h
    simp only [decodeSched]
    rw [if_neg (by omega), if_neg (by omega)]

/-- The `ROUND` rows end at the rounds of the variant (R97). -/
theorem decodeRound_of_ge (h : v.R ≤ t.toNat) : decodeRound v t = .error .indexBeyondRounds := by
  cases v
  case sha1 =>
    simp only [Variant.R] at h
    simp only [decodeRound]
    rw [if_neg (by omega), if_neg (by omega), if_neg (by omega), if_neg (by omega)]
  all_goals exact if_neg (Nat.not_lt.mpr h)

/-- A step word with a variant's code is decoded by the rows of its phase. -/
theorem decodeStepWord_of_code (hv : v.code = stepVar w) :
    decodeStepWord w =
      if stepPhase w = phaseIDLE then .error .idlePhase
      else if stepPhase w = phasePAD then decodeUnindexed (.padblk v) (stepIndex w)
      else if stepPhase w = phaseSCHED then decodeSched v (stepIndex w)
      else if stepPhase w = phaseLDV then decodeUnindexed (.ldv v) (stepIndex w)
      else if stepPhase w = phaseROUND then decodeRound v (stepIndex w)
      else if stepPhase w = phaseACC then decodeUnindexed (.acc v) (stepIndex w)
      else .error .reservedPhase := by
  simp only [decodeStepWord, ← hv, ofCode_code]

theorem exists_code_of_decodeStepWord (h : decodeStepWord w = .ok i) : ∃ v : Variant, v.code = stepVar w := by
  unfold decodeStepWord at h
  split at h
  case isTrue => cases h
  case isFalse =>
    split at h
    case h_1 => cases h
    case h_2 v hv => exact ⟨v, (code_of_ofCode hv).symm⟩

/-- An instruction read from a step word is of a row of its phase, for the variant of its code (R96). -/
theorem decodeStepWord_eq_ok_iff : decodeStepWord w = .ok i ↔ ∃ v : Variant, v.code = stepVar w ∧
    ((stepPhase w = phasePAD ∧ decodeUnindexed (.padblk v) (stepIndex w) = .ok i) ∨
     (stepPhase w = phaseSCHED ∧ decodeSched v (stepIndex w) = .ok i) ∨
     (stepPhase w = phaseLDV ∧ decodeUnindexed (.ldv v) (stepIndex w) = .ok i) ∨
     (stepPhase w = phaseROUND ∧ decodeRound v (stepIndex w) = .ok i) ∨
     (stepPhase w = phaseACC ∧ decodeUnindexed (.acc v) (stepIndex w) = .ok i)) := by
  constructor
  · intro h
    obtain ⟨v, hv⟩ := exists_code_of_decodeStepWord h
    rw [decodeStepWord_of_code hv] at h
    refine ⟨v, hv, ?_⟩
    split_ifs at h with _ hpad hsched hldv hround hacc
    · exact .inl ⟨hpad, h⟩
    · exact .inr (.inl ⟨hsched, h⟩)
    · exact .inr (.inr (.inl ⟨hldv, h⟩))
    · exact .inr (.inr (.inr (.inl ⟨hround, h⟩)))
    · exact .inr (.inr (.inr (.inr ⟨hacc, h⟩)))
  · rintro ⟨v, hv, ⟨hp, h⟩ | ⟨hp, h⟩ | ⟨hp, h⟩ | ⟨hp, h⟩ | ⟨hp, h⟩⟩
    all_goals simpa +decide [decodeStepWord_of_code hv, hp] using h

end Rows

/-! ## The decoder and the encoder -/

section Inverse

variable {v : Variant} {t : BitVec 7} {i : Instr} {w : BitVec 13}

theorem decodeSched_encodes (h : decodeSched v t = .ok i) :
    i.wf = true ∧ encode i = .stepWord (packStepWord v.code phaseSCHED t) := by
  obtain ⟨hv, ht, rfl⟩ | ⟨hv, ht, rfl⟩ | ⟨hv, ht, ht', rfl⟩ | ⟨hv, hv', ht, ht', rfl⟩ | ⟨hv, ht, ht', rfl⟩ :=
    decodeSched_eq_ok_iff.mp h
  all_goals
    simp_all [Instr.wf, encode, inRange_iff, isFam32_iff_code, isFam64_iff_code, isS256_iff_code, code_toNat_eq_zero_iff]

theorem decodeRound_encodes (h : decodeRound v t = .ok i) :
    i.wf = true ∧ encode i = .stepWord (packStepWord v.code phaseROUND t) := by
  obtain ⟨hv, ht, rfl⟩ | ⟨hv, ht, ht', rfl⟩ | ⟨hv, ht, ht', rfl⟩ | ⟨hv, ht, ht', rfl⟩ | ⟨hv, hv', ht, rfl⟩ | ⟨hv, ht, rfl⟩ :=
    decodeRound_eq_ok_iff.mp h
  all_goals simp_all [Instr.wf, encode, inRange_iff, isFam64_iff_code, isS256_iff_code, code_toNat_eq_zero_iff]

theorem decodeStepWord_encodes (h : decodeStepWord w = .ok i) : i.wf = true ∧ encode i = .stepWord w := by
  obtain ⟨v, hv, hrow⟩ := decodeStepWord_eq_ok_iff.mp h
  rw [← pack_fields w, ← hv]
  obtain ⟨hp, h⟩ | ⟨hp, h⟩ | ⟨hp, h⟩ | ⟨hp, h⟩ | ⟨hp, h⟩ := hrow
  case inl | inr.inr.inl | inr.inr.inr.inr =>
    obtain ⟨ht, rfl⟩ := decodeUnindexed_eq_ok_iff.mp h
    exact ⟨rfl, by rw [encode, hp, ht]⟩
  · rw [hp]
    exact decodeSched_encodes h
  · rw [hp]
    exact decodeRound_encodes h

end Inverse

/-- Settles O1: a command by its word, a micro-operation by the rows of its phase. -/
theorem decodeOfEncode : Obligations.DecodeOfEncode := by
  unfold Obligations.DecodeOfEncode
  intro i hi
  cases i with
  | digestSha1 | digestSha224 | digestSha256 | digestSha384 | digestSha512 => exact decodeCommand_commandWord _
  | padblk v => exact decodeStepWord_pad v
  | ldv v => exact decodeStepWord_ldv v
  | acc v => exact decodeStepWord_acc v
  | wld32 | wld64 | wexpSha1 | wexpS256 | wexpS512 =>
    refine (decodeStepWord_sched _ _).trans (decodeSched_eq_ok_iff.mpr ?_)
    simpa [Instr.wf, inRange_iff, isFam32_iff_code, isFam64_iff_code, isS256_iff_code, code_toNat_eq_zero_iff, and_assoc]
      using hi
  | rndSha1Ch | rndSha1Par1 | rndSha1Maj | rndSha1Par2 | rndS256 | rndS512 =>
    refine (decodeStepWord_round _ _).trans (decodeRound_eq_ok_iff.mpr ?_)
    simpa [Instr.wf, inRange_iff, isFam32_iff_code, isFam64_iff_code, isS256_iff_code, code_toNat_eq_zero_iff, and_assoc]
      using hi

/-- Settles O2: an accepted command word is the word of its variant, and an accepted step word is its three fields, which its
row fixes. -/
theorem encodeOfDecode : Obligations.EncodeOfDecode := by
  unfold Obligations.EncodeOfDecode
  intro c i h
  cases c with
  | command w =>
    obtain ⟨v, rfl⟩ := Machine.digestInstr_of_decodeCommand h
    rw [decodeCommand_eq_digestInstr_iff.mp h]
    exact ⟨digestInstr_wf v, encode_digestInstr v⟩
  | stepWord w => exact decodeStepWord_encodes h

/-- Settles O3: a word is that of a variant or it is rejected. -/
theorem commandWordTable : Obligations.CommandWordTable := by
  unfold Obligations.CommandWordTable
  intro w
  refine ⟨decodeCommand_eq_digestInstr_iff (v := .sha1), decodeCommand_eq_digestInstr_iff (v := .sha224),
    decodeCommand_eq_digestInstr_iff (v := .sha256), decodeCommand_eq_digestInstr_iff (v := .sha384),
    decodeCommand_eq_digestInstr_iff (v := .sha512), fun h1 h224 h256 h384 h512 => ?_⟩
  obtain ⟨v, rfl⟩ | hreserved := eq_commandWord_or_reserved w
  · cases v
    case sha1 => exact absurd rfl h1
    case sha224 => exact absurd rfl h224
    case sha256 => exact absurd rfl h256
    case sha384 => exact absurd rfl h384
    case sha512 => exact absurd rfl h512
  · exact hreserved

/-- Settles O4: the rows of each phase; and a reachable state outside `IDLE` runs an invocation, whose step word is that of a
micro-operation. -/
theorem stepWordTable : Obligations.StepWordTable := by
  unfold Obligations.StepWordTable
  refine ⟨fun w i => ?_, fun s hs hp => ?_⟩
  · simp only [decodeStepWord_eq_ok_iff, decodeUnindexed_eq_ok_iff, decodeSched_eq_ok_iff, decodeRound_eq_ok_iff, and_or_left,
      or_assoc]
  · obtain ⟨v, hv⟩ := hs.inv.invocation hp
    obtain ⟨i, -, hd, -⟩ := hv.advances
    exact ⟨i, hd⟩

/-- Settles O5: the reserved words in the order in which the decoder rejects them. -/
theorem stepWordsOutsideTheTable : Obligations.StepWordsOutsideTheTable := by
  unfold Obligations.StepWordsOutsideTheTable
  intro w
  refine ⟨fun hp => if_pos hp, fun hp hvar => ?_, fun hvar hphase => ?_, fun hvar hphase ht => ?_, fun v hv hphase ht => ?_⟩
  · have hnone : Variant.ofCode (stepVar w) = none := by
      rw [← Option.not_isSome_iff_eq_none, ofCode_isSome_iff]
      omega
    simp [decodeStepWord, hp, hnone]
  · obtain ⟨v, hv⟩ := ofCode_of_le hvar
    have hne : ∀ p : BitVec 3, p.toNat < 6 → stepPhase w ≠ p := by
      rintro p hp rfl
      omega
    simp [decodeStepWord_of_code (code_of_ofCode hv).symm, hne]
  · obtain ⟨v, hv⟩ := ofCode_of_le hvar
    obtain hp | hp | hp := hphase <;>
      simp +decide [decodeStepWord_of_code (code_of_ofCode hv).symm, hp, decodeUnindexed_of_ne ht]
  · obtain hp | hp := hphase <;>
      simp +decide [decodeStepWord_of_code hv, hp, decodeSched_of_ge ht, decodeRound_of_ge ht]

/-- Settles O6: the decoder evaluated on each word. -/
theorem sampleWordsDecode : Obligations.SampleWordsDecode := by
  unfold Obligations.SampleWordsDecode
  decide

end Sys2Proof
end

-- ==== Proofs: the machine computes the fold of the compression function (O52) ====
section
/-! The end-to-end contract (spec/40_host_commands.md R126). The invariant says, position by position, which words of the
pure digest function the datapath holds (`State.FoldsAt`); every step keeps it, and at the end it is the contract. -/

namespace Sys2Proof.Machine

open Sys2Proof Host

/-- What every step keeps holds after any number of steps. -/
theorem core_run_keeps {P : State → Prop} (hstep : ∀ s t, P s → step s = .next t → P t) {k : Nat} {s t : State}
    (hs : P s) (hrun : core.run k s = .next t) : P t := by
  induction k generalizing s with
  | zero => cases hrun; exact hs
  | succ k ih =>
    cases hst : step s with
    | next u => exact ih (hstep s u hs hst) ((core_run_succ k hst).symm.trans hrun)
    | fault r => cases r
    | refused r =>
      have hc : core.step s = .refused r := hst
      simp [Host.Core.run, hc] at hrun

/-! ## Files that begin with a list of words -/

/-- The first elements of the file are those of the list. -/
def BeginsWith {m : Nat} (xs : Vector Elem m) (es : List Elem) : Prop := ∀ i (hi : i < es.length), elemAt xs i = es[i]

section BeginsWith

variable {v : Variant} {m i : Nat} {xs : Vector Elem m} {es : List Elem} {s : State}

theorem BeginsWith.to32 {as : List Word32} (h : BeginsWith xs (as.map .w32)) (hi : i < as.length) (free : Word64) :
    (elemAt xs i).to32 free = as.getD i 0#32 := by
  rw [h i (by simpa using hi)]
  simp [Elem.to32, hi]

theorem BeginsWith.to64 {as : List Word64} (h : BeginsWith xs (as.map .w64)) (hi : i < as.length) (free : Word64) :
    (elemAt xs i).to64 free = as.getD i 0#64 := by
  rw [h i (by simpa using hi)]
  simp [Elem.to64, hi]

theorem BeginsWith.fileSet (h : BeginsWith xs es) (hm : es.length < m) (e : Elem) :
    BeginsWith (fileSet xs es.length e) (es ++ [e]) := by
  intro i hi
  rw [elemAt_fileSet xs e i hm, List.getElem_append]
  split_ifs with hie hlt hlt
  · omega
  · simp
  · exact h i hlt
  · simp at hi
    omega

theorem beginsWith_overwrite (hm : es.length ≤ m) (xs : Vector Elem m) : BeginsWith (overwrite es xs) es := by
  intro i hi
  rw [elemAt_overwrite es xs (by omega), List.getD_eq_getElem _ _ hi]

theorem beginsWith_loadIV (v : Variant) (xs : Vector Elem 8) : BeginsWith (loadIV v xs) (ivElems v) := by
  intro i hi
  have hlen : (ivElems v).length = v.NV := by cases v <;> rfl
  have hNV := v.NV_le
  rw [elemAt_loadIV v xs (by omega), if_pos (by omega), List.getD_eq_getElem _ _ hi]

/-- `LDV` copies words of the variant's width as they are (R170). -/
theorem elemAt_loadV_of_filled (h : Filled v v.NV s.H) (hi : i < v.NV) : elemAt (loadV v s) i = elemAt s.H i := by
  rw [elemAt_loadV v s (hi.trans_le v.NV_le), if_pos hi]
  cases hv : v.isFam64 with
  | false => exact (Elem.to32_holds (h i hi) hv _).symm
  | true => exact (Elem.to64_holds (h i hi) hv _).symm

theorem BeginsWith.accumulate32 {as bs : List Word32} (hv : v.isFam64 = false) (ha : as.length = v.NV)
    (hb : bs.length = v.NV) (hH : BeginsWith s.H (as.map .w32)) (hV : BeginsWith s.V (bs.map .w32)) :
    BeginsWith (accumulate v s) ((List.zipWith (· + ·) as bs).map .w32) := by
  intro i hi
  have hiv : i < v.NV := by simp at hi; omega
  have hh : s.h32 i = as.getD i 0#32 := hH.to32 (by omega) _
  have hx : s.v32 i = bs.getD i 0#32 := hV.to32 (by omega) _
  rw [elemAt_accumulate v s (hiv.trans_le v.NV_le), if_pos hiv, hv, hh, hx]
  simp [ha, hb, hiv]

theorem BeginsWith.accumulate64 {as bs : List Word64} (hv : v.isFam64 = true) (ha : as.length = v.NV)
    (hb : bs.length = v.NV) (hH : BeginsWith s.H (as.map .w64)) (hV : BeginsWith s.V (bs.map .w64)) :
    BeginsWith (accumulate v s) ((List.zipWith (· + ·) as bs).map .w64) := by
  intro i hi
  have hiv : i < v.NV := by simp at hi; omega
  have hh : s.h64 i = as.getD i 0#64 := hH.to64 (by omega) _
  have hx : s.v64 i = bs.getD i 0#64 := hV.to64 (by omega) _
  rw [elemAt_accumulate v s (hiv.trans_le v.NV_le), if_pos hiv, hv, hh, hx]
  simp [ha, hb, hiv]

end BeginsWith

/-! ## The words of the pure function in one block -/

/-- The first `n` schedule words of block `j`, as elements of the variant's width (R157). -/
def refWords (v : Variant) (len : BitVec 128) (msg : Nat → Byte) (j n : Nat) : List Elem :=
  match v with
  | .sha1 => (refSchedule (refRaw32 .sha1 len msg j) refNextSha1 n).map .w32
  | .sha224 => (refSchedule (refRaw32 .sha224 len msg j) refNextS256 n).map .w32
  | .sha256 => (refSchedule (refRaw32 .sha256 len msg j) refNextS256 n).map .w32
  | .sha384 => (refSchedule (refRaw64 .sha384 len msg j) refNextS512 n).map .w64
  | .sha512 => (refSchedule (refRaw64 .sha512 len msg j) refNextS512 n).map .w64

/-- The round of index `t` of `refCompressSha1`. -/
def refRoundSha1 (ws : List Word32) (t : Nat) (x : Work5 Word32) : Work5 Word32 :=
  sha1Round (refSha1Fn t) (k1 (t / 20)) (ws.getD t 0#32) x

/-- The round of index `t` of `refCompressS256`. -/
def refRoundS256 (ws : List Word32) (t : Nat) (x : Work8 Word32) : Work8 Word32 :=
  sha2Round bigSigma0_256 bigSigma1_256 (k256 t) (ws.getD t 0#32) x

/-- The round of index `t` of `refCompressS512`. -/
def refRoundS512 (ws : List Word64) (t : Nat) (x : Work8 Word64) : Work8 Word64 :=
  sha2Round bigSigma0_512 bigSigma1_512 (k512 t) (ws.getD t 0#64) x

/-- The working variables of block `j` after `n` rounds, as elements of the variant's width (R126). -/
def refWork (v : Variant) (len : BitVec 128) (msg : Nat → Byte) (j n : Nat) : List Elem :=
  match v with
  | .sha1 => (refRounds (refRoundSha1 (refSchedule (refRaw32 .sha1 len msg j) refNextSha1 80)) n
      (refHashSha1 len msg j)).toList.map .w32
  | .sha224 => (refRounds (refRoundS256 (refSchedule (refRaw32 .sha224 len msg j) refNextS256 64)) n
      (refHashS256 .sha224 IV_1 len msg j)).toList.map .w32
  | .sha256 => (refRounds (refRoundS256 (refSchedule (refRaw32 .sha256 len msg j) refNextS256 64)) n
      (refHashS256 .sha256 IV_2 len msg j)).toList.map .w32
  | .sha384 => (refRounds (refRoundS512 (refSchedule (refRaw64 .sha384 len msg j) refNextS512 80)) n
      (refHashS512 .sha384 IV_3 len msg j)).toList.map .w64
  | .sha512 => (refRounds (refRoundS512 (refSchedule (refRaw64 .sha512 len msg j) refNextS512 80)) n
      (refHashS512 .sha512 IV_4 len msg j)).toList.map .w64

section Reference

variable {v : Variant} {len : BitVec 128} {msg : Nat → Byte} {j n : Nat} {s : State}

theorem refSchedule_length {w : Nat} (raw : Nat → BitVec w) (next : (Nat → BitVec w) → Nat → BitVec w) (n : Nat) :
    (refSchedule raw next n).length = n := by
  induction n with
  | zero => rfl
  | succ n ih => simp [refSchedule, ih]

theorem refWords_length (v : Variant) (len : BitVec 128) (msg : Nat → Byte) (j n : Nat) :
    (refWords v len msg j n).length = n := by
  cases v <;> simp [refWords, refSchedule_length]

theorem refHash_length (v : Variant) (len : BitVec 128) (msg : Nat → Byte) (j : Nat) :
    (refHash v len msg j).length = v.NV := by
  cases v <;> rfl

theorem refHash_zero (v : Variant) (len : BitVec 128) (msg : Nat → Byte) : refHash v len msg 0 = ivElems v := by
  cases v <;> rfl

/-- Before the first round the working variables are the hash. -/
theorem refWork_zero (v : Variant) (len : BitVec 128) (msg : Nat → Byte) (j : Nat) :
    refWork v len msg j 0 = refHash v len msg j := by
  cases v <;> rfl

/-- `ACC` adds the working variables after the last round to the hash of the block before (R126). -/
theorem accumulate_refHash (hH : BeginsWith s.H (refHash v len msg j)) (hV : BeginsWith s.V (refWork v len msg j v.R)) :
    BeginsWith (accumulate v s) (refHash v len msg (j + 1)) := by
  cases v with
  | sha1 | sha224 | sha256 => exact BeginsWith.accumulate32 rfl rfl rfl hH hV
  | sha384 | sha512 => exact BeginsWith.accumulate64 rfl rfl rfl hH hV

/-! ### The schedule -/

/-- A byte of the Padded Buffer is that of the pure function (R133). -/
theorem padByte_eq_ref (hs : s.Runs v len msg) {i : Nat} (hi : i < blockCount v len * v.B) :
    padByte v s i = refPadByte v len msg i := by
  rw [padByte_eq, hs.L, hs.NBLK, if_pos hi, refPadByte]
  split_ifs with hmsg
  · exact hs.msg i hmsg
  all_goals rfl

/-- The block buffer holds block `j` of the Padded Buffer. -/
def State.BufferHolds (v : Variant) (len : BitVec 128) (msg : Nat → Byte) (j : Nat) (s : State) : Prop :=
  ∀ i, i < v.B → byteAt s.M i = some (refBlockByte v len msg j i)

theorem State.BufferHolds.m8 (h : s.BufferHolds v len msg j) {i : Nat} (hi : i < v.B) :
    s.m8 i = refBlockByte v len msg j i := by
  rw [State.m8, h i hi, Option.getD_some]

/-- `PADBLK` fills the block buffer with its block (R134). -/
theorem padBlock_holds (hs : s.Runs v len msg) (hb : s.BIDX.toNat < s.NBLK.toNat) :
    (s.setM (padBlock v s)).BufferHolds v len msg s.BIDX.toNat := by
  intro i hi
  have hin : s.BIDX.toNat * v.B + i < blockCount v len * v.B := by
    rw [hs.NBLK] at hb
    calc s.BIDX.toNat * v.B + i < (s.BIDX.toNat + 1) * v.B := by rw [Nat.succ_mul]; omega
      _ ≤ blockCount v len * v.B := Nat.mul_le_mul_right _ hb
  rw [State.setM_M, byteAt_padBlock v s (hi.trans_le v.B_le), if_pos hi, padByte_eq_ref hs hin, refBlockByte]

theorem rawWord32_eq_ref (hv : v.isFam64 = false) (hM : s.BufferHolds v len msg j) (hn : n < 16) :
    s.rawWord32 n = refRaw32 v len msg j n := by
  have hb : ∀ i, i < 64 → s.m8 i = refBlockByte v len msg j i := fun i hi => hM.m8 (by simpa [Variant.B, hv] using hi)
  simp (disch := omega) only [State.rawWord32, refRaw32, hb]

theorem rawWord64_eq_ref (hv : v.isFam64 = true) (hM : s.BufferHolds v len msg j) (hn : n < 16) :
    s.rawWord64 n = refRaw64 v len msg j n := by
  have hb : ∀ i, i < 128 → s.m8 i = refBlockByte v len msg j i := fun i hi => hM.m8 (by simpa [Variant.B, hv] using hi)
  simp (disch := omega) only [State.rawWord64, refRaw64, hb]

/-- The recurrences read words already computed; the pure function reads the same ones from its list. -/
theorem expand_eq_ref32 {ws : List Word32} (hW : BeginsWith s.W (ws.map .w32)) (hlen : ws.length = n) (hn : ¬n < 16) :
    s.expandSha1 n = refNextSha1 (fun i => ws.getD i 0#32) n ∧ s.expandS256 n = refNextS256 (fun i => ws.getD i 0#32) n := by
  have hw : ∀ i, i < n → s.w32 i = ws.getD i 0#32 := fun i hi => hW.to32 (hlen ▸ hi) _
  constructor
  · simp (disch := omega) only [State.expandSha1, refNextSha1, hw]
  · simp (disch := omega) only [State.expandS256, refNextS256, hw]

theorem expand_eq_ref64 {ws : List Word64} (hW : BeginsWith s.W (ws.map .w64)) (hlen : ws.length = n) (hn : ¬n < 16) :
    s.expandS512 n = refNextS512 (fun i => ws.getD i 0#64) n := by
  have hw : ∀ i, i < n → s.w64 i = ws.getD i 0#64 := fun i hi => hW.to64 (hlen ▸ hi) _
  simp (disch := omega) only [State.expandS512, refNextS512, hw]

/-- The next schedule word of the pure function is the one the machine writes. -/
theorem refWords_succ (hM : s.BufferHolds v len msg j) (hW : BeginsWith s.W (refWords v len msg j n)) :
    refWords v len msg j (n + 1) = refWords v len msg j n ++ [s.schedElem v n] := by
  by_cases hn : n < 16
  · cases v with
    | sha1 | sha224 | sha256 =>
      simp [refWords, refSchedule, State.schedElem, hn, Variant.isFam64, rawWord32_eq_ref rfl hM hn]
    | sha384 | sha512 =>
      simp [refWords, refSchedule, State.schedElem, hn, Variant.isFam64, rawWord64_eq_ref rfl hM hn]
  · cases v with
    | sha1 | sha224 | sha256 =>
      obtain ⟨hsha1, hs256⟩ := expand_eq_ref32 hW (refSchedule_length ..) hn
      simp [refWords, refSchedule, State.schedElem, hn, hsha1, hs256]
    | sha384 | sha512 =>
      have hs512 := expand_eq_ref64 hW (refSchedule_length ..) hn
      simp [refWords, refSchedule, State.schedElem, hn, hs512]

/-! ### The rounds -/

theorem work5_eq {x : Work5 Word32} (hV : BeginsWith s.V (x.toList.map .w32)) : s.work5 = x := by
  have hx : ∀ i, i < 5 → s.v32 i = x.toList.getD i 0#32 := fun i hi => hV.to32 hi _
  simp (disch := decide) only [State.work5, hx]
  rfl

theorem work8x32_eq {x : Work8 Word32} (hV : BeginsWith s.V (x.toList.map .w32)) : s.work8x32 = x := by
  have hx : ∀ i, i < 8 → s.v32 i = x.toList.getD i 0#32 := fun i hi => hV.to32 hi _
  simp (disch := decide) only [State.work8x32, hx]
  rfl

theorem work8x64_eq {x : Work8 Word64} (hV : BeginsWith s.V (x.toList.map .w64)) : s.work8x64 = x := by
  have hx : ∀ i, i < 8 → s.v64 i = x.toList.getD i 0#64 := fun i hi => hV.to64 hi _
  simp (disch := decide) only [State.work8x64, hx]
  rfl

/-- The working variables of the pure function after one more round are those the machine writes. -/
theorem refWork_succ (hn : n < v.R) (hW : BeginsWith s.W (refWords v len msg j v.R))
    (hV : BeginsWith s.V (refWork v len msg j n)) : refWork v len msg j (n + 1) = s.roundElems v n := by
  cases v with
  | sha1 =>
    have hw : s.w32 n = _ := hW.to32 (by rwa [refSchedule_length]) _
    simp only [State.roundElems, work5_eq hV, hw]
    rfl
  | sha224 | sha256 =>
    have hw : s.w32 n = _ := hW.to32 (by rwa [refSchedule_length]) _
    simp only [State.roundElems, work8x32_eq hV, hw]
    rfl
  | sha384 | sha512 =>
    have hw : s.w64 n = _ := hW.to64 (by rwa [refSchedule_length]) _
    simp only [State.roundElems, work8x64_eq hV, hw]
    rfl

end Reference

/-! ## The running fold -/

/-- What the datapath of an invocation holds at each position, in words of the pure function: the hash of the blocks done, and
of the block at hand its bytes, its schedule words and its working variables (R126). -/
inductive State.FoldsAt (v : Variant) (len : BitVec 128) (msg : Nat → Byte) (s : State) : Prop where
  | idle : s.PHASE = phaseIDLE → s.DONE = true → BeginsWith s.H (refHash v len msg s.NBLK.toNat) → FoldsAt v len msg s
  | pad : s.PHASE = phasePAD → BeginsWith s.H (refHash v len msg s.BIDX.toNat) → FoldsAt v len msg s
  | sched : s.PHASE = phaseSCHED → BeginsWith s.H (refHash v len msg s.BIDX.toNat) →
      s.BufferHolds v len msg s.BIDX.toNat → BeginsWith s.W (refWords v len msg s.BIDX.toNat s.T.toNat) → FoldsAt v len msg s
  | ldv : s.PHASE = phaseLDV → BeginsWith s.H (refHash v len msg s.BIDX.toNat) →
      BeginsWith s.W (refWords v len msg s.BIDX.toNat v.R) → FoldsAt v len msg s
  | round : s.PHASE = phaseROUND → BeginsWith s.H (refHash v len msg s.BIDX.toNat) →
      BeginsWith s.W (refWords v len msg s.BIDX.toNat v.R) → BeginsWith s.V (refWork v len msg s.BIDX.toNat s.T.toNat) →
      FoldsAt v len msg s
  | acc : s.PHASE = phaseACC → BeginsWith s.H (refHash v len msg s.BIDX.toNat) →
      BeginsWith s.V (refWork v len msg s.BIDX.toNat v.R) → FoldsAt v len msg s

/-- An invocation that runs, or has just ended, and has folded the blocks it is past. -/
structure State.Folds (v : Variant) (len : BitVec 128) (msg : Nat → Byte) (s : State) : Prop where
  runs : s.Runs v len msg
  shape : s.Invocation v ∨ s.Idle v
  data : s.FoldsAt v len msg

section Folds

variable {v : Variant} {len : BitVec 128} {msg : Nat → Byte} {s t : State}

theorem foldsAt_execPadblk (hr : s.Runs v len msg) (hb : s.BIDX.toNat < s.NBLK.toNat)
    (hH : BeginsWith s.H (refHash v len msg s.BIDX.toNat)) (ht : execPadblk v s = .next t) : t.FoldsAt v len msg := by
  cases ht
  exact .sched rfl hH (padBlock_holds hr hb) fun i hi => absurd hi (by simp [refWords_length])

theorem foldsAt_writeSched (hT : s.T.toNat < v.R) (hH : BeginsWith s.H (refHash v len msg s.BIDX.toNat))
    (hM : s.BufferHolds v len msg s.BIDX.toNat) (hW : BeginsWith s.W (refWords v len msg s.BIDX.toNat s.T.toNat)) :
    (s.writeSched v s.T (s.schedElem v s.T.toNat)).FoldsAt v len msg := by
  have hT80 : s.T.toNat < 80 := hT.trans_le v.R_le
  have hW' : BeginsWith (fileSet s.W s.T.toNat (s.schedElem v s.T.toNat))
      (refWords v len msg s.BIDX.toNat (s.T.toNat + 1)) := by
    have h := hW.fileSet (by rwa [refWords_length]) (s.schedElem v s.T.toNat)
    rwa [refWords_length, ← refWords_succ hM hW] at h
  by_cases hR : s.T.toNat + 1 = v.R
  · refine .ldv ?_ ?_ ?_ <;> simp only [State.writeSched, State.nextSched_PHASE, State.nextSched_BIDX, State.nextSched_H,
      State.nextSched_W, if_pos hR]
    · exact hH
    · exact hR ▸ hW'
  · refine .sched ?_ ?_ ?_ ?_ <;> simp only [State.BufferHolds, State.writeSched, State.nextSched_PHASE,
      State.nextSched_T, State.nextSched_BIDX, State.nextSched_H, State.nextSched_M, State.nextSched_W, if_neg hR,
      index_succ hT80]
    · exact hH
    · exact hM
    · exact hW'

theorem foldsAt_execLdv (hf : Filled v v.NV s.H) (hH : BeginsWith s.H (refHash v len msg s.BIDX.toNat))
    (hW : BeginsWith s.W (refWords v len msg s.BIDX.toNat v.R)) (ht : execLdv v s = .next t) : t.FoldsAt v len msg := by
  cases ht
  have hV : BeginsWith (loadV v s) (refWork v len msg s.BIDX.toNat 0) := by
    rw [refWork_zero]
    intro i hi
    rw [elemAt_loadV_of_filled hf (by rwa [refHash_length] at hi)]
    exact hH i hi
  exact .round rfl hH hW hV

theorem foldsAt_round (hT : s.T.toNat < v.R) (hH : BeginsWith s.H (refHash v len msg s.BIDX.toNat))
    (hW : BeginsWith s.W (refWords v len msg s.BIDX.toNat v.R))
    (hV : BeginsWith s.V (refWork v len msg s.BIDX.toNat s.T.toNat)) :
    ((s.setV (overwrite (s.roundElems v s.T.toNat) s.V)).nextRound v s.T).FoldsAt v len msg := by
  have hT80 : s.T.toNat < 80 := hT.trans_le v.R_le
  have hV' : BeginsWith (overwrite (s.roundElems v s.T.toNat) s.V) (refWork v len msg s.BIDX.toNat (s.T.toNat + 1)) := by
    rw [refWork_succ hT hW hV]
    exact beginsWith_overwrite ((roundElems_length s v _).trans_le v.NV_le) s.V
  by_cases hR : s.T.toNat + 1 = v.R
  · refine .acc ?_ ?_ ?_ <;> simp only [State.nextRound_PHASE, State.nextRound_BIDX, State.nextRound_H, State.nextRound_V,
      if_pos hR]
    · exact hH
    · exact hR ▸ hV'
  · refine .round ?_ ?_ ?_ ?_ <;> simp only [State.nextRound_PHASE, State.nextRound_T, State.nextRound_BIDX,
      State.nextRound_H, State.nextRound_W, State.nextRound_V, if_neg hR, index_succ hT80]
    · exact hH
    · exact hW
    · exact hV'

theorem foldsAt_execAcc (hb : s.BIDX.toNat < s.NBLK.toNat) (hH : BeginsWith s.H (refHash v len msg s.BIDX.toNat))
    (hV : BeginsWith s.V (refWork v len msg s.BIDX.toNat v.R)) (ht : execAcc v s = .next t) : t.FoldsAt v len msg := by
  have hsum : BeginsWith (accumulate v s) (refHash v len msg (s.BIDX.toNat + 1)) := accumulate_refHash hH hV
  obtain ⟨hlast, rfl⟩ | ⟨-, rfl⟩ := execAcc_next ht
  · exact .idle rfl rfl (hlast ▸ hsum)
  · exact .pad rfl (by rw [← BIDX_succ hb] at hsum; exact hsum)

/-- A step of a running engine keeps what its datapath holds. -/
theorem State.Invocation.step_foldsAt (h : s.Invocation v) (hr : s.Runs v len msg) (hd : s.FoldsAt v len msg)
    (hst : Machine.step s = .next t) : t.FoldsAt v len msg := by
  have hT : s.T.toNat < v.R := h.data.index
  cases hd with
  | idle hp => exact absurd hp h.data.not_idle
  | pad hp hH =>
    rw [hr.step_pad hp (h.data.noIndex (.inl hp))] at hst
    exact foldsAt_execPadblk hr.nextTick h.block hH hst
  | sched hp hH hM hW =>
    cases (hr.step_sched hp hT).symm.trans hst
    exact foldsAt_writeSched (s := s.nextTick) hT hH hM hW
  | ldv hp hH hW =>
    rw [hr.step_ldv hp (h.data.noIndex (.inr (.inl hp)))] at hst
    exact foldsAt_execLdv (s := s.nextTick) h.hash hH hW hst
  | round hp hH hW hV =>
    cases (hr.step_round hp hT).symm.trans hst
    exact foldsAt_round (s := s.nextTick) hT hH hW hV
  | acc hp hH hV =>
    rw [hr.step_acc hp (h.data.noIndex (.inr (.inr hp)))] at hst
    exact foldsAt_execAcc (s := s.nextTick) h.block hH hV hst

theorem State.Folds.step (h : s.Folds v len msg) (hst : Machine.step s = .next t) : t.Folds v len msg := by
  obtain ⟨hr, hinv | hidle, hd⟩ := h
  · obtain ⟨u, hu, -, hru, hshape⟩ := hinv.step hr
    cases hu.symm.trans hst
    exact ⟨hru, hshape, hinv.step_foldsAt hr hd hst⟩
  · cases (hr.step_idle hidle.PHASE).symm.trans hst
    exact ⟨hr, .inr hidle, hd⟩

/-- An accepted command loads the hash of no block. -/
theorem started_folds (hr : (s.started v).Runs v len msg) (hinv : (s.started v).Invocation v) :
    (s.started v).Folds v len msg where
  runs := hr
  shape := .inl hinv
  data := .pad rfl (by
    show BeginsWith (loadIV v s.H) (refHash v len msg 0)
    rw [refHash_zero]
    exact beginsWith_loadIV v s.H)

/-- An idle engine that has folded its blocks holds the digest (R126). -/
theorem State.Folds.holds_digest (h : s.Folds v len msg) (hp : s.PHASE = phaseIDLE) :
    s.DONE = true ∧ BeginsWith s.H (refHash v len msg (blockCount v len)) := by
  cases h.data with
  | idle _ hdone hH => exact ⟨hdone, h.runs.NBLK ▸ hH⟩
  | pad hp' | sched hp' | ldv hp' | round hp' | acc hp' => simp +decide [hp'] at hp

end Folds

/-- Settles O52: the accepted command begins the fold, every step keeps it, and the engine is idle after the steps of the
invocation. -/
theorem endToEndContract : Obligations.EndToEndContract := by
  unfold Obligations.EndToEndContract
  intro v s hbusy hheld hrst hturns hlen halign
  have hr : (s.started v).Runs v s.bitLength (Memory.read s.MSG) := started_runs hheld hrst rfl hlen fun _ _ => rfl
  have hinv : (s.started v).Invocation v := start_invocation (s := s.setTurns []) hlen halign
  obtain ⟨t, hrun, hidle, hrt, -⟩ := hinv.run (P := fun _ => True) (fun _ _ => trivial) (fun _ _ _ _ _ => trivial) hr trivial
  rw [stepsLeft_started hr] at hrun
  have hfolds : t.Folds v s.bitLength (Memory.read s.MSG) := core_run_keeps (fun _ _ h => h.step) (started_folds hr hinv) hrun
  obtain ⟨hdone, hH⟩ := hfolds.holds_digest hidle.PHASE
  have herr : t.ERR = false := by simpa [hdone] using hidle.oneFlag
  refine ⟨s.started v, t, step_startsInvocation hbusy hheld hrst hturns hlen halign, hrun, hidle.PHASE, hidle.BUSY, hdone,
    herr, hrt.VAR, hrt.L, fun i hi => ?_⟩
  have hi' : i < (refHash v s.bitLength (Memory.read s.MSG) (blockCount v s.bitLength)).length := by rwa [refHash_length]
  rw [hH i hi', List.getD_eq_getElem _ _ hi']

end Sys2Proof.Machine
end

-- ==== Proofs: the host's accesses (O9 to O13, O45, O59) ====
section
/-! The accesses of the host (spec/40_host_commands.md R110 to R114, R119, R120): what a read returns, and what a write or the
placing of a byte changes and leaves alone. -/

namespace Sys2Proof.Machine

open Sys2Proof Host

/-! ## Writes -/

section Write

variable {s t : State} {ts : List Turn} {n : BitVec 5} {x w : Word32} {i : Instr}

/-- What a write of a length register leaves alone in the engine. -/
theorem setLEN_frame (s : State) (ts : List Turn) (n : BitVec 5) (x : Word32) :
    s.KeepsDatapath ((s.setTurns ts).setLEN n x) ∧ s.KeepsPosition ((s.setTurns ts).setLEN n x) ∧
      s.KeepsParameters ((s.setTurns ts).setLEN n x) ∧ s.KeepsFlags ((s.setTurns ts).setLEN n x) := by
  refine ⟨⟨?_, ?_, ?_, ?_⟩, ⟨?_, ?_, ?_⟩, ⟨?_, ?_, ?_⟩, ⟨?_, ?_, ?_⟩⟩ <;> simp

/-- A number other than 2 to 5 is that of no length register (R110). -/
theorem setLEN_of_no_register (hn : n.toNat < 2 ∨ 5 < n.toNat) : s.setLEN n x = s := by
  unfold State.setLEN
  rw [if_neg (by bv_omega), if_neg (by bv_omega), if_neg (by bv_omega), if_neg (by bv_omega)]

theorem hostWrite_of_ne_zero (hn : n ≠ 0#5) : hostWrite n x s = .next (s.setLEN n x) := if_neg hn

theorem writeCMD_of_ok (h : decodeCommand w = .ok i) : writeCMD w s = exec i s := by simp [writeCMD, h]

theorem writeCMD_of_reserved {r : Reject} (h : decodeCommand w = .error r) : writeCMD w s = .next s := by
  simp [writeCMD, h]

theorem commandWord_range (v : Variant) : 0x10 ≤ (commandWord v).toNat ∧ (commandWord v).toNat ≤ 0x14 := by
  cases v <;> decide

/-- The legal command words are `0x10` to `0x14` (R92, R94). -/
theorem decodeCommand_outside_range (h : w.toNat < 0x10 ∨ 0x14 < w.toNat) : decodeCommand w = .error .reservedCommand := by
  obtain ⟨v, rfl⟩ | hreserved := eq_commandWord_or_reserved w
  · have hrange := commandWord_range v
    omega
  · exact hreserved

/-- A host write that is next and not kept waiting is made (R110). -/
theorem step_write (hts : s.turns = .host (.write n x) :: ts) (hheld : s.held = none) (hrst : s.RST = false) :
    step s = hostWrite n x (s.setTurns ts) := step_host hts hheld hrst

/-- A write of a length register (R111). -/
theorem step_writeLEN (hts : s.turns = .host (.write n x) :: ts) (hheld : s.held = none) (hrst : s.RST = false)
    (hn : n ≠ 0#5) : step s = .next ((s.setTurns ts).setLEN n x) := by
  rw [step_write hts hheld hrst, hostWrite_of_ne_zero hn]

/-- A write of a reserved command word, or of a register that takes none, changes nothing (R110, R119). -/
theorem hostWrite_discarded (h : (n.toNat = 0 ∧ (x.toNat < 0x10 ∨ 0x14 < x.toNat)) ∨ n.toNat = 1 ∨ 6 ≤ n.toNat) :
    hostWrite n x s = .next s := by
  obtain ⟨hn, hx⟩ | hn := h
  · have hn0 : n = 0#5 := by bv_omega
    rw [hostWrite, if_pos hn0, writeCMD_of_reserved (decodeCommand_outside_range hx)]
  · rw [hostWrite_of_ne_zero (by bv_omega), setLEN_of_no_register (by omega)]

end Write

/-- Settles O9: the write is `State.setLEN`, which writes the register of the number. -/
theorem hostWriteOfLEN : Obligations.HostWriteOfLEN := by
  unfold Obligations.HostWriteOfLEN
  intro s ts n x hts hheld hrst hlo hhi
  have hn : ∀ k : BitVec 5, n = k ↔ n.toNat = k.toNat := fun _ => BitVec.toNat_inj.symm
  obtain ⟨hdata, hpos, hparam, hflags⟩ := setLEN_frame s ts n x
  refine ⟨_, step_writeLEN hts hheld hrst (by bv_omega), ?_, ?_, ?_, ?_, hdata, hpos, hparam, hflags, fun a => ?_, ?_, ?_, ?_,
    ?_, ?_⟩ <;> simp [hn, hrst, hheld]

/-- Settles O13: the step is the write, which is discarded, or `rst` is asserted and no write is accepted. -/
theorem writesWithoutEffectAreDiscarded : Obligations.WritesWithoutEffectAreDiscarded := by
  unfold Obligations.WritesWithoutEffectAreDiscarded
  intro s ts n x hts hheld hnone
  cases hrst : s.RST with
  | true => exact step_host_inReset hts hrst
  | false => rw [step_write hts hheld hrst, hostWrite_discarded hnone]

/-- Settles O45: the step is the write of the word to `CMD`, which runs the command. -/
theorem hostStepRunsDecodedCommand : Obligations.HostStepRunsDecodedCommand := by
  unfold Obligations.HostStepRunsDecodedCommand
  intro s ts w i hd hheld hrst hts
  rw [step_write hts hheld hrst, hostWrite, if_pos rfl, writeCMD_of_ok hd]

/-! ## Reads -/

section Read

variable {s t : State} {ts : List Turn} {n : BitVec 5}

/-- `STATUS` as a number (R112). -/
theorem status_toNat (s : State) :
    s.status.toNat = 8 * s.VAR.toNat + 4 * s.ERR.toNat + 2 * s.DONE.toNat + s.BUSY.toNat := by
  unfold State.status
  generalize s.VAR = v, s.ERR = e, s.DONE = d, s.BUSY = b
  revert v e d b
  decide

/-- A host read that is next and not kept waiting is recorded and leaves the engine as it is (R112 to R114). -/
theorem step_read (hts : s.turns = .host (.read n) :: ts) (hheld : s.held = none) (hrst : s.RST = false) :
    ∃ t, step s = .next t ∧ t.reads = s.reads ++ [(n, s.hostRead n)] ∧ s.SameEngine t ∧ t.turns = ts ∧ t.held = none ∧
      t.msgReads = s.msgReads :=
  ⟨_, step_host hts hheld hrst, rfl,
    ⟨⟨rfl, rfl, rfl, rfl⟩, ⟨rfl, rfl, rfl⟩, ⟨rfl, rfl, rfl⟩, ⟨rfl, rfl, rfl⟩, ⟨rfl, rfl, rfl, rfl⟩, fun _ => rfl, rfl⟩,
    rfl, hheld, rfl⟩

/-- The registers 2 to 5 (R113). -/
theorem register_cases (hlo : 2 ≤ n.toNat) (hhi : n.toNat ≤ 5) : n = 2#5 ∨ n = 3#5 ∨ n = 4#5 ∨ n = 5#5 := by bv_omega

theorem hostRead_LEN (s : State) (n : BitVec 5) :
    (n.toNat = 2 → s.hostRead n = s.LEN0) ∧ (n.toNat = 3 → s.hostRead n = s.LEN1) ∧
      (n.toNat = 4 → s.hostRead n = s.LEN2) ∧ (n.toNat = 5 → s.hostRead n = s.LEN3) := by
  have hn : ∀ k : BitVec 5, n.toNat = k.toNat → n = k := fun _ => BitVec.eq_of_toNat_eq
  refine ⟨fun h => ?_, fun h => ?_, fun h => ?_, fun h => ?_⟩
  · rw [hn 2#5 h]; rfl
  · rw [hn 3#5 h]; rfl
  · rw [hn 4#5 h]; rfl
  · rw [hn 5#5 h]; rfl

theorem hostRead_of_keepsLEN (hlo : 2 ≤ n.toNat) (hhi : n.toNat ≤ 5) (h : s.KeepsLEN t) : t.hostRead n = s.hostRead n := by
  obtain rfl | rfl | rfl | rfl := register_cases hlo hhi
  · exact h.LEN0
  · exact h.LEN1
  · exact h.LEN2
  · exact h.LEN3

theorem hostRead_setLEN_same (hlo : 2 ≤ n.toNat) (hhi : n.toNat ≤ 5) (x : Word32) : (s.setLEN n x).hostRead n = x := by
  obtain rfl | rfl | rfl | rfl := register_cases hlo hhi <;> rfl

theorem hostRead_setLEN_other {k : BitVec 5} (hlo : 2 ≤ n.toNat) (hhi : n.toNat ≤ 5) (hk : k ≠ n) (x : Word32) :
    (s.setLEN k x).hostRead n = s.hostRead n := by
  obtain rfl | rfl | rfl | rfl := register_cases hlo hhi <;> simp [State.hostRead, hk]

/-- The registers other than `STATUS` and `LEN0` to `LEN3`: `DOUT0` to `DOUT15`, and those that read 0 (R114). -/
theorem hostRead_outside_LEN (hn : n.toNat = 0 ∨ 6 ≤ n.toNat) :
    s.hostRead n = if 8 ≤ n.toNat ∧ n.toNat ≤ 23 then s.dout (n.toNat - 8) else 0#32 := by
  unfold State.hostRead
  rw [if_neg (by bv_omega), if_neg (by bv_omega), if_neg (by bv_omega), if_neg (by bv_omega), if_neg (by bv_omega)]

/-- A step leaves the length registers as they are, releases an asserted `rst`, or is a host write of a register. -/
theorem step_LEN (h : step s = .next t) :
    s.KeepsLEN t ∨ s.resetNext = true ∨
      ∃ ts n x, s.turns = .host (.write n x) :: ts ∧ t = (s.setTurns ts).setLEN n x := by
  cases step_cases h with
  | micro ts i _ _ _ _ _ hex =>
    obtain ⟨h0, h1, h2, h3⟩ := exec_keepsLEN hex
    exact .inl ⟨h0, h1, h2, h3⟩
  | command ts w v _ _ _ _ hex =>
    obtain ⟨h0, h1, h2, h3⟩ := digestCommand_keepsLEN hex
    exact .inl ⟨h0, h1, h2, h3⟩
  | releaseRst ts hts hrst => exact .inr (.inl (by simp [State.resetNext, hts, hrst]))
  | len ts n x _ _ hts => exact .inr (.inr ⟨ts, n, x, hts, rfl⟩)
  | assertRst | noEffect | readInReset | idle | discard | read | place => exact .inl ⟨rfl, rfl, rfl, rfl⟩

end Read

/-- Settles O10: the read returns `STATUS`. -/
theorem hostReadOfSTATUS : Obligations.HostReadOfSTATUS := by
  unfold Obligations.HostReadOfSTATUS
  intro s ts hts hheld hrst
  obtain ⟨t, hst, hread, hframe⟩ := step_read hts hheld hrst
  exact ⟨t, s.status, hst, status_toNat s, hread, hframe⟩

/-- Settles O12: the read returns the register of the number. -/
theorem hostReadOfDOUTAndZeroRegisters : Obligations.HostReadOfDOUTAndZeroRegisters := by
  unfold Obligations.HostReadOfDOUTAndZeroRegisters
  intro s ts n hts hheld hrst hn
  obtain ⟨t, hst, hread, hframe⟩ := step_read hts hheld hrst
  have hx := hostRead_outside_LEN (s := s) hn
  exact ⟨t, s.hostRead n, hst, fun hlo hhi => hx.trans (if_pos ⟨hlo, hhi⟩), fun h => hx.trans (if_neg (by omega)), hread,
    hframe⟩

/-- Settles O11: a read returns the register; a write puts the value there; and of all steps only a write of that register and the
release of `rst` change it. -/
theorem hostReadOfLEN : Obligations.HostReadOfLEN := by
  unfold Obligations.HostReadOfLEN
  refine ⟨?_, ?_, ?_, reset_hostRead⟩
  · intro s ts n hts hheld hrst hlo hhi
    obtain ⟨t, hst, hread, hframe⟩ := step_read hts hheld hrst
    obtain ⟨h0, h1, h2, h3⟩ := hostRead_LEN s n
    exact ⟨t, s.hostRead n, hst, h0, h1, h2, h3, hread, hframe⟩
  · intro s ts n x hts hheld hrst hlo hhi
    have hst := step_writeLEN hts hheld hrst (by bv_omega)
    obtain ⟨t, hst', hread, -, hturns, -, -⟩ := step_read (s := (s.setTurns (.host (.read n) :: ts)).setLEN n x) (n := n)
      (ts := ts) (by simp) (by simpa using hheld) (by simpa using hrst)
    rw [hostRead_setLEN_same hlo hhi] at hread
    exact ⟨t, by rw [core_run_succ _ hst, core_run_succ _ hst']; rfl, by simpa using hread, hturns⟩
  · intro s t n hlo hhi hst hne
    obtain hkeep | hreset | ⟨ts, k, x, hts, rfl⟩ := step_LEN hst
    · exact absurd (hostRead_of_keepsLEN hlo hhi hkeep) hne
    · exact .inl hreset
    · have hkn : k = n := by
        by_contra hkn
        exact hne (hostRead_setLEN_other (s := s.setTurns ts) hlo hhi hkn x)
      subst hkn
      exact .inr ⟨ts, x, hts, hostRead_setLEN_same hlo hhi x⟩

/-! ## The placing of a byte -/

/-- The host places a byte, also while `rst` is asserted (R120). -/
theorem step_place {s : State} {ts : List Turn} {a : BitVec 125} {b : Byte} (hts : s.turns = .host (.place a b) :: ts)
    (h : s.RST = true ∨ s.held = none) : step s = .next ((s.setTurns ts).placeByte a b) := by
  cases hrst : s.RST with
  | true => exact step_host_inReset hts hrst
  | false => exact step_host hts (h.resolve_left (by simp [hrst])) hrst

/-- Settles O59: by the laws of the message space. -/
theorem placedByteReadsBack : Obligations.PlacedByteReadsBack := by
  unfold Obligations.PlacedByteReadsBack
  intro s ts a b hts h hwf
  exact ⟨_, step_place hts h, Memory.wf_write b hwf a.isLt, Memory.read_writeFrom a.toNat b hwf, ⟨rfl, rfl, rfl, rfl⟩,
    ⟨rfl, rfl, rfl⟩, ⟨rfl, rfl, rfl⟩, ⟨rfl, rfl, rfl⟩, ⟨rfl, rfl, rfl, rfl⟩, rfl, rfl, rfl, rfl, rfl⟩

end Sys2Proof.Machine
end

-- ==== Proofs: the start of an invocation, and the command held while one runs (O15, O18) ====
section
/-! What an accepted command does (spec/40_host_commands.md R115, R117), and what becomes of one written while `BUSY = 1`
(R116). -/

namespace Sys2Proof.Machine

open Sys2Proof Host

/-! ## The accepted command -/

section Start

variable {v : Variant} {s : State}

/-- A command of an aligned length in range, accepted, starts an invocation (R115, R117). -/
theorem digestCommand_starts (hbusy : s.BUSY = false) (hlen : s.bitLength.toNat ≤ v.LMAX)
    (halign : s.bitLength.toNat % 8 = 0) : digestCommand v s = .next ((s.accept v).start v) := by
  have hover : lengthOverflows v s.bitLength = false := by simpa [lengthOverflows] using hlen
  simp [digestCommand, hbusy, hover, halign]

/-- What the start of an invocation leaves alone. -/
theorem start_frame (s : State) (v : Variant) :
    ((s.accept v).start v).V = s.V ∧ ((s.accept v).start v).W = s.W ∧ ((s.accept v).start v).M = s.M ∧
      s.KeepsLEN ((s.accept v).start v) ∧ s.KeepsMSG ((s.accept v).start v) ∧
      s.KeepsEnvironment ((s.accept v).start v) ∧ ((s.accept v).start v).msgReads = s.msgReads :=
  ⟨rfl, rfl, rfl, ⟨rfl, rfl, rfl, rfl⟩, fun _ => rfl, ⟨rfl, rfl, rfl, rfl, rfl⟩, rfl⟩

theorem elemAt_loadIV_of_lt (xs : Vector Elem 8) {i : Nat} (hi : i < v.NV) :
    elemAt (loadIV v xs) i = (ivElems v).getD i .invalid := by
  rw [elemAt_loadIV v xs (hi.trans_le v.NV_le), if_pos hi]

/-- The initial hash value is loaded over the words of the variant alone. -/
theorem elemAt_loadIV_of_ge (xs : Vector Elem 8) {i : Nat} (hi : v.NV ≤ i) : elemAt (loadIV v xs) i = elemAt xs i := by
  by_cases hi8 : i < 8
  · rw [elemAt_loadIV v xs hi8, if_neg (by omega)]
  · rw [elemAt_out _ (by omega), elemAt_out _ (by omega)]

end Start

/-- Settles O15: field by field in the state the command starts from. -/
theorem digestStartsInvocation : Obligations.DigestStartsInvocation := by
  unfold Obligations.DigestStartsInvocation
  intro v s hbusy hlen halign
  refine ⟨(s.accept v).start v, (exec_digest v s).trans (digestCommand_starts hbusy hlen halign),
    fun i hi => ⟨elemAt_loadIV_of_lt s.H hi, loadIV_filled v s.H i hi⟩, ?_, fun i hi => elemAt_loadIV_of_ge s.H hi,
    start_NBLK hlen, rfl, rfl, rfl, rfl, rfl, rfl, rfl, rfl, start_frame s v⟩
  rintro rfl
  have hIV : ∀ i, i < 5 → elemAt (loadIV .sha1 s.H) i = (ivElems .sha1).getD i .invalid := fun _ =>
    elemAt_loadIV_of_lt (v := .sha1) s.H
  exact ⟨hIV 0 (by decide), hIV 1 (by decide), hIV 2 (by decide), hIV 3 (by decide), hIV 4 (by decide)⟩

/-! ## The held command -/

section Held

variable {v : Variant} {len : BitVec 128} {msg : Nat → Byte} {s t : State} {w : Word32}

/-- While a write is held and `BUSY = 1` the step is the engine's (R116). -/
theorem step_held_busy (hheld : s.held = some w) (hbusy : s.BUSY = true) (hrst : s.RST = false)
    (hnext : s.rstNext = false) : step s = engineTurn s.engineTurnTaken := by
  simp [step, takeTurn, hnext, hrst, hheld, heldTurn, hbusy]

/-- Once `BUSY = 0` the held write is made (R116). -/
theorem step_held_idle (hheld : s.held = some w) (hbusy : s.BUSY = false) (hrst : s.RST = false)
    (hnext : s.rstNext = false) : step s = writeCMD w (s.setHeld none) := by
  simp [step, takeTurn, hnext, hrst, hheld, heldTurn, hbusy]

theorem writeSched_setHeld (s : State) (v : Variant) (k : BitVec 7) (e : Elem) (c : Option Word32) :
    (s.setHeld c).writeSched v k e = (s.writeSched v k e).setHeld c := by
  unfold State.writeSched State.nextSched
  split_ifs <;> rfl

theorem setV_nextRound_setHeld (s : State) (x : Vector Elem 8) (v : Variant) (k : BitVec 7) (c : Option Word32) :
    ((s.setHeld c).setV x).nextRound v k = ((s.setV x).nextRound v k).setHeld c := by
  unfold State.nextRound
  split_ifs <;> rfl

/-- A held command is no operand of a micro-operation. -/
theorem exec_micro_setHeld {i : Instr} (hi : i.isMicroOp = true) (h : exec i s = .next t) (c : Option Word32) :
    exec i (s.setHeld c) = .next (t.setHeld c) := by
  cases i with
  | digestSha1 | digestSha224 | digestSha256 | digestSha384 | digestSha512 => cases hi
  | padblk | ldv => cases h; rfl
  | wld32 | wld64 | wexpSha1 | wexpS256 | wexpS512 => cases h; exact congrArg Outcome.next (writeSched_setHeld ..)
  | rndSha1Ch | rndSha1Par1 | rndSha1Maj | rndSha1Par2 | rndS256 | rndS512 =>
    cases h; exact congrArg Outcome.next (setV_nextRound_setHeld ..)
  | acc v =>
    obtain ⟨hlast, rfl⟩ | ⟨hlast, rfl⟩ := execAcc_next h
    · exact if_pos hlast
    · exact if_neg hlast

/-- A running engine steps with a command held as it does without. -/
theorem State.Invocation.step_setHeld (h : s.Invocation v) (halone : s.engineAlone) (hst : Machine.step s = .next t)
    (w : Word32) : Machine.step (s.setHeld (some w)) = .next (t.setHeld (some w)) := by
  obtain ⟨i, hd, hex⟩ := engineAlone_step_next halone h.data.not_idle hst
  obtain ⟨hturns, -, hrst⟩ := halone
  have hstep : Machine.step (s.setHeld (some w)) = engineTurn (s.setHeld (some w)) :=
    step_engine hturns (.inr h.BUSY) hrst
  have hp : (s.setHeld (some w)).PHASE ≠ phaseIDLE := h.data.not_idle
  have hd' : decodeStepWord (s.setHeld (some w)).stepWord = .ok i := hd
  rw [hstep, engineTurn, if_neg hp, hd']
  exact exec_micro_setHeld (decodeStepWord_isMicroOp hd) hex (some w)

/-- So it does to the end of the invocation. -/
theorem State.Invocation.run_setHeld {k : Nat} (h : s.Invocation v) (hr : s.Runs v len msg) (hk : k ≤ stepsLeft v s)
    (hrun : core.run k s = .next t) (w : Word32) : core.run k (s.setHeld (some w)) = .next (t.setHeld (some w)) := by
  induction k generalizing s with
  | zero => cases hrun; rfl
  | succ k ih =>
    obtain ⟨u, hst, hadv, hru, hu⟩ := h.step hr
    have hleft : stepsLeft v u + 1 = stepsLeft v s := hadv.stepsLeft h.block
    rw [core_run_succ k hst] at hrun
    rw [core_run_succ k (h.step_setHeld hr.alone hst w)]
    obtain hu | hu := hu
    · exact ih hu hru (by omega) hrun
    · have hk0 : k = 0 := by rw [stepsLeft_idle hu.PHASE] at hleft; omega
      subst hk0
      cases hrun
      rfl

theorem State.Advances.keepsLEN (h : s.Advances v t) : s.KeepsLEN t := by
  cases h with
  | padblk _ _ ht | ldv _ _ ht => cases ht; exact ⟨rfl, rfl, rfl, rfl⟩
  | sched => exact (writeSched_keepsRest ..).len
  | round => exact (setV_nextRound_keepsRest ..).len
  | acc _ _ ht => obtain ⟨-, rfl⟩ | ⟨-, rfl⟩ := execAcc_next ht <;> exact ⟨rfl, rfl, rfl, rfl⟩

theorem bitLength_of_keepsLEN (h : s.KeepsLEN t) : t.bitLength = s.bitLength := by
  simp only [State.bitLength, h.LEN0, h.LEN1, h.LEN2, h.LEN3]

/-- A running engine with nothing held and no turn waiting runs its own parameters. -/
theorem State.Invocation.runs (h : s.Invocation v) (halone : s.engineAlone) : s.Runs v s.L (Memory.read s.MSG) := by
  obtain ⟨-, -, hblocks⟩ := h.length
  exact ⟨halone, h.VAR, rfl, hblocks, fun _ _ => rfl⟩

/-- With a command held, the engine ends its invocation after exactly the steps left (R116, R218). -/
theorem State.Invocation.run_held (h : (s.setHeld none).Invocation v) (hheld : s.held = some w) (hturns : s.turns = [])
    (hrst : s.RST = false) :
    ∃ t, core.run (stepsLeft v s) s = .next t ∧ t.BUSY = false ∧ t.held = some w ∧ t.RST = false ∧ t.turns = [] ∧
      t.bitLength = s.bitLength := by
  have hr := h.runs ⟨hturns, rfl, hrst⟩
  obtain ⟨t, hrun, hidle, hrt, hlen⟩ := h.run (P := fun u => u.bitLength = s.bitLength) (fun _ hu => hu)
    (fun _ _ _ hadv hu => (bitLength_of_keepsLEN hadv.keepsLEN).trans hu) hr rfl
  have hrun' := h.run_setHeld hr le_rfl hrun w
  have hs : (s.setHeld none).setHeld (some w) = s := by rw [← hheld]; rfl
  rw [hs] at hrun'
  obtain ⟨hturns', -, hrst'⟩ := hrt.alone
  exact ⟨t.setHeld (some w), hrun', hidle.BUSY, rfl, hrst', hturns', hlen⟩

end Held

/-- Settles O18: the write is held; the engine runs as it does with nothing held; and when it is done the write is made. -/
theorem commandHeldWhileBusy : Obligations.CommandHeldWhileBusy := by
  unfold Obligations.CommandHeldWhileBusy
  have hlifted : ∀ (s : State) (v : Variant), s.held = some (commandWord v) → s.BUSY = false → s.RST = false →
      s.rstNext = false → step s = exec (digestInstr v) (s.setHeld none) := fun s v hheld hbusy hrst hnext => by
    rw [step_held_idle hheld hbusy hrst hnext, writeCMD_of_ok (decodeCommand_commandWord v)]
  refine ⟨fun s ts v hts hheld hrst hbusy => ?_, fun s w => step_held_busy, hlifted, fun s v u hinv hu hheld hbusy hturns => ?_⟩
  · rw [step_write hts hheld hrst, hostWrite, if_pos rfl, writeCMD_of_ok (decodeCommand_commandWord v), exec_digest]
    exact if_pos hbusy
  · have hrst : s.RST = false := by
      by_contra h
      have hnone := hinv.dropped (by simpa using h)
      rw [hheld] at hnone
      cases hnone
    obtain ⟨u', hu'⟩ := hinv.release.invocation (hinv.control.busy.mp hbusy)
    have hvar : u' = u := code_injective (hu'.VAR.symm.trans (code_of_ofCode hu))
    subst hvar
    obtain ⟨t, hrun, hbusy', hheld', hrst', hturns', hlen⟩ := hu'.run_held hheld hturns hrst
    exact ⟨t, hrun, hbusy', hheld', hlifted t v hheld' hbusy' hrst' (by simp [State.rstNext, hturns']), hlen⟩

end Sys2Proof.Machine
end

-- ==== Proofs: the padding (O21 to O25) ====
section
/-! The Padded Buffer (spec/41_padding.md): its length in bits, in bytes and in blocks, what stands where in it, and the
micro-operation that produces a block of it. -/

namespace Sys2Proof

/-- The sizes of the two families (R4, R5), as numerals for the arithmetic. -/
theorem Variant.sizes (v : Variant) :
    (v.isFam64 = false ∧ v.Bb = 512 ∧ v.B = 64 ∧ v.lfb = 64 ∧ v.LB = 8) ∨
    (v.isFam64 = true ∧ v.Bb = 1024 ∧ v.B = 128 ∧ v.lfb = 128 ∧ v.LB = 16) := by
  cases v <;> decide

theorem Variant.LB_lt_B (v : Variant) : v.LB < v.B := by cases v <;> decide

end Sys2Proof

namespace Sys2Proof.Machine

open Sys2Proof Host

/-! ## The zero-padding length -/

section ZeroBits

variable (v : Variant) (len : Nat)

theorem refZeroBits_lt : refZeroBits v len < v.Bb := by
  unfold refZeroBits
  obtain ⟨-, hBb, -, hlfb, -⟩ | ⟨-, hBb, -, hlfb, -⟩ := v.sizes <;> rw [hBb, hlfb] <;> omega

/-- Marker, zeros and length field fill up the last block: the padded message is the least whole number of blocks that holds
them. -/
theorem paddedBits_eq : len + 1 + refZeroBits v len + v.lfb = ((len + v.lfb) / v.Bb + 1) * v.Bb := by
  unfold refZeroBits
  obtain ⟨-, hBb, -, hlfb, -⟩ | ⟨-, hBb, -, hlfb, -⟩ := v.sizes <;> rw [hBb, hlfb] <;> omega

theorem refZeroBits_congruence : (len + 1 + refZeroBits v len) % v.Bb = v.Bb - v.lfb := by
  have hpad := paddedBits_eq v len
  obtain ⟨-, hBb, -, hlfb, -⟩ | ⟨-, hBb, -, hlfb, -⟩ := v.sizes <;> rw [hBb, hlfb] at hpad ⊢ <;> omega

variable {len}

/-- Two solutions differ by whole blocks, and `k` is less than a block. -/
theorem refZeroBits_le {k : Nat} (hk : (len + 1 + k) % v.Bb = v.Bb - v.lfb) : refZeroBits v len ≤ k := by
  by_contra hlt
  have hmod : len + 1 + refZeroBits v len ≡ len + 1 + k [MOD v.Bb] := (refZeroBits_congruence v len).trans hk.symm
  have hsmall := refZeroBits_lt v len
  exact hlt ((Nat.ModEq.add_left_cancel' _ hmod).eq_of_lt_of_lt hsmall (by omega)).le

/-- For a whole number of bytes, `k` is the seven low bits of the marker byte and whole bytes. -/
theorem refZeroBits_mod_eight (h8 : len % 8 = 0) : refZeroBits v len % 8 = 7 := by
  have hpad := paddedBits_eq v len
  obtain ⟨-, hBb, -, hlfb, -⟩ | ⟨-, hBb, -, hlfb, -⟩ := v.sizes <;> rw [hBb, hlfb] at hpad <;> omega

end ZeroBits

/-- Settles O21: `k` fills up the last block, and is less than a block. -/
theorem zeroPaddingLength : Obligations.ZeroPaddingLength := by
  unfold Obligations.ZeroPaddingLength
  refine fun v len => ⟨refZeroBits_lt v len, refZeroBits_congruence v len, fun _ => refZeroBits_le v, fun h8 => ?_⟩
  have hmod := refZeroBits_mod_eight v h8
  have hlt := refZeroBits_lt v len
  obtain ⟨-, hBb, hB, hlfb, hLB⟩ | ⟨-, hBb, hB, hlfb, hLB⟩ := v.sizes <;> rw [hBb] at hlt <;> rw [hB, hlfb, hLB] <;> omega

/-! ## The number of blocks -/

section BlockCount

variable (v : Variant) (len : BitVec 128)

/-- The number of blocks counted in bits is the number counted in bytes (R132). -/
theorem blockCount_eq_bits : blockCount v len = (len.toNat + v.lfb) / v.Bb + 1 := by
  unfold blockCount
  obtain ⟨-, hBb, hB, hlfb, hLB⟩ | ⟨-, hBb, hB, hlfb, hLB⟩ := v.sizes <;> rw [hBb, hB, hlfb, hLB] <;> omega

theorem blockCount_mul_Bb : blockCount v len * v.Bb = len.toNat + 1 + refZeroBits v len.toNat + v.lfb := by
  rw [paddedBits_eq, blockCount_eq_bits]

variable {v len}

theorem blockCount_le_of_fam32 (hv : v.isFam32 = true) (hlen : len.toNat ≤ v.LMAX) : blockCount v len ≤ 2 ^ 55 + 1 := by
  rw [Variant.LMAX] at hlen
  rw [blockCount]
  obtain ⟨-, -, hB, hlfb, hLB⟩ | ⟨h64, -⟩ := v.sizes
  · rw [hlfb] at hlen
    rw [hB, hLB]
    omega
  · simp [Variant.isFam32, h64] at hv

theorem blockCount_le_of_fam64 (hv : v.isFam64 = true) : blockCount v len ≤ 2 ^ 118 + 1 := by
  have hlen := len.isLt
  rw [blockCount]
  obtain ⟨h32, -⟩ | ⟨-, -, hB, -, hLB⟩ := v.sizes
  · rw [h32] at hv
    cases hv
  · rw [hB, hLB]
    omega

variable (v len)

/-- The message, the marker and the length field fit into the blocks (R133). -/
theorem msgBytes_add_le_blocks : len.toNat / 8 + 1 + v.LB ≤ blockCount v len * v.B := by
  rw [blockCount]
  obtain ⟨-, -, hB, -, hLB⟩ | ⟨-, -, hB, -, hLB⟩ := v.sizes <;> rw [hB, hLB] <;> omega

variable {v len}

/-- The marker and the length field fit after the message's last bytes. -/
theorem blockCount_of_one_tail (hr : len.toNat / 8 % v.B + v.LB + 1 ≤ v.B) : blockCount v len = len.toNat / 8 / v.B + 1 := by
  rw [blockCount]
  obtain ⟨-, -, hB, -, hLB⟩ | ⟨-, -, hB, -, hLB⟩ := v.sizes <;> rw [hB, hLB] at hr ⊢ <;> omega

/-- They do not, and the length field takes a block of its own. -/
theorem blockCount_of_two_tails (hr : v.B ≤ len.toNat / 8 % v.B + v.LB) : blockCount v len = len.toNat / 8 / v.B + 2 := by
  rw [blockCount]
  obtain ⟨-, -, hB, -, hLB⟩ | ⟨-, -, hB, -, hLB⟩ := v.sizes <;> rw [hB, hLB] at hr ⊢ <;> omega

end BlockCount

/-- Settles O22: the count in bits and the count in bytes agree; the range of the length bounds them. -/
theorem blockCountForms : Obligations.BlockCountForms := by
  unfold Obligations.BlockCountForms
  refine ⟨fun v => by cases v <;> decide, fun v len hlen _ => ⟨blockCount_mul_Bb v len, blockCount_eq_bits v len, rfl,
    Nat.succ_pos _, fun hv => blockCount_le_of_fam32 hv hlen, blockCount_le_of_fam64, ?_⟩⟩
  rw [BitVec.toNat_ofNat]
  exact Nat.mod_eq_of_lt (blockCount_lt hlen)

/-! ## The bytes of the Padded Buffer -/

/-- A byte of a big-endian value, as a number (R9). -/
theorem beByte_toNat {w : Nat} (n : Nat) (x : BitVec w) (j : Nat) :
    (beByte n x j).toNat = x.toNat / 2 ^ (8 * (n - 1 - j)) % 256 := by
  rw [beByte, BitVec.extractLsb'_toNat, Nat.shiftRight_eq_div_pow]

section Ranges

variable {v : Variant} {s : State} {i j : Nat} (hblocks : s.NBLK.toNat = blockCount v s.L)

theorem padByte_zero (h : s.L.toNat / 8 < i) (hi : i < s.NBLK.toNat * v.B - v.LB) : padByte v s i = 0x00#8 := by
  rw [padByte_eq, if_pos (by omega), if_neg (by omega), if_neg (by omega), if_pos hi]

include hblocks

/-- The last byte of the first three ranges lies before the length field (R133). -/
theorem marker_before_length : s.L.toNat / 8 + 1 + v.LB ≤ s.NBLK.toNat * v.B :=
  hblocks ▸ msgBytes_add_le_blocks v s.L

theorem padByte_message (h : i < s.L.toNat / 8) : padByte v s i = Memory.read s.MSG i := by
  have hend := marker_before_length hblocks
  rw [padByte_eq, if_pos (by omega), if_pos h]

theorem padByte_marker (h : i = s.L.toNat / 8) : padByte v s i = 0x80#8 := by
  have hend := marker_before_length hblocks
  rw [padByte_eq, if_pos (by omega), if_neg (by omega), if_pos h]

theorem padByte_length (hj : j < v.LB) (hi : i = s.NBLK.toNat * v.B - v.LB + j) : padByte v s i = beByte v.LB s.L j := by
  have hend := marker_before_length hblocks
  rw [padByte_eq, if_pos (by omega), if_neg (by omega), if_neg (by omega), if_neg (by omega), hi, Nat.add_sub_cancel_left]

end Ranges

/-- Settles O23: range by range. -/
theorem paddedBufferRanges : Obligations.PaddedBufferRanges := by
  unfold Obligations.PaddedBufferRanges
  intro v s i _ _ hblocks hi
  have hend := marker_before_length hblocks
  refine ⟨by omega, padByte_message hblocks, padByte_marker hblocks, padByte_zero, fun hlen => ?_⟩
  have hindex : v.LB - 1 - (i - (s.NBLK.toNat * v.B - v.LB)) = s.NBLK.toNat * v.B - 1 - i := by omega
  rw [padByte_length hblocks (j := i - (s.NBLK.toNat * v.B - v.LB)) (by omega) (by omega), beByte_toNat, hindex]

/-! ## The marker and the length field, by blocks -/

section Placement

variable {v : Variant} {s : State} {q r m : Nat} (hblocks : s.NBLK.toNat = blockCount v s.L)

include hblocks

/-- The blocks before the marker's hold message bytes only. -/
theorem padByte_messageBlock {j : Nat} (hn : s.L.toNat / 8 = q * v.B + r) (hj : j < q) (hm : m < v.B) :
    padByte v s (j * v.B + m) = Memory.read s.MSG (j * v.B + m) := by
  have hle : (j + 1) * v.B ≤ q * v.B := Nat.mul_le_mul_right _ hj
  rw [Nat.succ_mul] at hle
  exact padByte_message hblocks (by omega)

/-- The last block ends with the length field. -/
theorem padByte_lastBlock_length (hlast : s.NBLK.toNat = q + 1) (hm : m < v.B) (hlen : v.B - v.LB ≤ m) :
    padByte v s (q * v.B + m) = beByte v.LB s.L (m - (v.B - v.LB)) := by
  have hLB := v.LB_lt_B
  refine padByte_length hblocks (by omega) ?_
  rw [hlast, Nat.succ_mul]
  omega

end Placement

/-- Settles O24: block `q` holds the last message bytes and the marker in both cases; the length field ends it, or ends the
block after it. -/
theorem markerAndLengthPlacement : Obligations.MarkerAndLengthPlacement := by
  unfold Obligations.MarkerAndLengthPlacement
  intro v s q r _ _ hblocks hq hr
  have hn : s.L.toNat / 8 = q * v.B + r := hq ▸ hr ▸ (Nat.div_add_mod' ..).symm
  have hLB := v.LB_lt_B
  have hmessage : ∀ m, m < r → padByte v s (q * v.B + m) = Memory.read s.MSG (q * v.B + m) := fun m hm =>
    padByte_message hblocks (by omega)
  have hmarker : ∀ m, m = r → padByte v s (q * v.B + m) = 0x80#8 := fun m hm => padByte_marker hblocks (by omega)
  refine ⟨fun j m => padByte_messageBlock hblocks hn, fun hone => ?_, fun htwo => ?_⟩
  · have hlast : s.NBLK.toNat = q + 1 := by rw [hblocks, hq, blockCount_of_one_tail (hr ▸ hone)]
    have hend : s.NBLK.toNat * v.B = q * v.B + v.B := by rw [hlast, Nat.succ_mul]
    exact ⟨hlast, fun m hm => ⟨hmessage m, hmarker m, fun hrm hm' => padByte_zero (by omega) (by omega),
      padByte_lastBlock_length hblocks hlast hm⟩⟩
  · have hlast : s.NBLK.toNat = q + 1 + 1 := by rw [hblocks, hq, blockCount_of_two_tails (hr ▸ htwo)]
    have hend : s.NBLK.toNat * v.B = (q + 1) * v.B + v.B := by rw [hlast, Nat.succ_mul]
    have hnext : (q + 1) * v.B = q * v.B + v.B := Nat.succ_mul ..
    have hrB : r < v.B := hr ▸ Nat.mod_lt _ (by omega)
    exact ⟨hlast, fun m hm => ⟨hmessage m, hmarker m, fun hrm => padByte_zero (by omega) (by omega),
      fun hm' => padByte_zero (by omega) (by omega), padByte_lastBlock_length hblocks hlast hm⟩⟩

/-! ## The micro-operation -/

section Padblk

variable (v : Variant) (s : State)

/-- The message indices of a block, below `n` and below the end of the buffer, ascending (R69, R134). -/
theorem padReads_eq_range' : padReads v s = List.range' (s.BIDX.toNat * v.B)
    (min (min (s.L.toNat / 8) (s.NBLK.toNat * v.B)) ((s.BIDX.toNat + 1) * v.B) - s.BIDX.toNat * v.B) := by
  have hblock : List.range' (s.BIDX.toNat * v.B) v.B = List.Ico (s.BIDX.toNat * v.B) ((s.BIDX.toNat + 1) * v.B) := by
    rw [List.Ico, Nat.succ_mul, Nat.add_sub_cancel_left]
  calc padReads v s
      = (List.Ico (s.BIDX.toNat * v.B) ((s.BIDX.toNat + 1) * v.B)).filter (· < min s.msgBytes (s.padEnd v)) := by
        simp only [padReads, hblock, lt_min_iff, Bool.decide_and]
    _ = List.Ico (s.BIDX.toNat * v.B) (min (min s.msgBytes (s.padEnd v)) ((s.BIDX.toNat + 1) * v.B)) := by
        rw [List.Ico.filter_lt, min_comm]

theorem byteAt_padBlock_of_lt {i : Nat} (hi : i < v.B) :
    byteAt (padBlock v s) i = some (padByte v s (s.BIDX.toNat * v.B + i)) := by
  rw [byteAt_padBlock v s (hi.trans_le v.B_le), if_pos hi]

/-- A block of 64 bytes leaves the upper half of the block buffer alone. -/
theorem byteAt_padBlock_of_ge {i : Nat} (hi : v.B ≤ i) : byteAt (padBlock v s) i = byteAt s.M i := by
  by_cases hi128 : i < 128
  · rw [byteAt_padBlock v s hi128, if_neg (by omega)]
  · rw [byteAt_out _ (by omega), byteAt_out _ (by omega)]

end Padblk

/-- Settles O25: field by field; `PADBLK` has one outcome. -/
theorem padblkProducesBlock : Obligations.PadblkProducesBlock := by
  unfold Obligations.PadblkProducesBlock
  exact fun v s => ⟨_, exec_padblk v s, fun _ => byteAt_padBlock_of_lt v s, fun _ => byteAt_padBlock_of_ge v s,
    elemAt_uniformFile 80, rfl, rfl, rfl, congrArg (s.msgReads ++ ·) (padReads_eq_range' v s), rfl, rfl, ⟨rfl, rfl, rfl⟩,
    ⟨rfl, rfl, rfl⟩, ⟨rfl, rfl, rfl, rfl⟩, fun _ => rfl, ⟨rfl, rfl, rfl, rfl, rfl⟩⟩

end Sys2Proof.Machine
end

-- ==== Proofs: the message schedule (O26 to O31) ====
section
/-! The Message Schedule Expander (spec/42_schedule.md): its word operations bit by bit and as numbers, what a schedule write
does, and the five micro-operations. -/

namespace Sys2Proof

/-! ## The rounds of a row's variants (R4, R96) -/

theorem Variant.sixteen_lt_R (v : Variant) : 16 < v.R := by cases v <;> decide

theorem Variant.R_of_isS256 {v : Variant} (h : v.isS256 = true) : v.R = 64 := by revert h; cases v <;> decide

theorem Variant.R_of_isFam64 {v : Variant} (h : v.isFam64 = true) : v.R = 80 := by revert h; cases v <;> decide

/-! ## The operand ranges of the `SCHED` rows (R96) -/

section Ranges

variable {v : Variant} {t : BitVec 7}

theorem wf_wld32_iff : (Instr.wld32 v t).wf = true ↔ v.isFam32 = true ∧ t.toNat ≤ 15 := by simp [Instr.wf, inRange_iff]

theorem wf_wld64_iff : (Instr.wld64 v t).wf = true ↔ v.isFam64 = true ∧ t.toNat ≤ 15 := by simp [Instr.wf, inRange_iff]

theorem wf_wexpSha1_iff : (Instr.wexpSha1 t).wf = true ↔ 16 ≤ t.toNat ∧ t.toNat ≤ 79 := by simp [Instr.wf, inRange_iff]

theorem wf_wexpS256_iff : (Instr.wexpS256 v t).wf = true ↔ v.isS256 = true ∧ 16 ≤ t.toNat ∧ t.toNat ≤ 63 := by
  simp [Instr.wf, inRange_iff]

theorem wf_wexpS512_iff : (Instr.wexpS512 v t).wf = true ↔ v.isFam64 = true ∧ 16 ≤ t.toNat ∧ t.toNat ≤ 79 := by
  simp [Instr.wf, inRange_iff]

end Ranges

end Sys2Proof

namespace Sys2Proof.Machine

open Sys2Proof Host

/-! ## The word operations -/

section Words

variable {w : Nat}

/-- A right shift brings to place `i` the bit `n` places above it, and 0 past the end of the word (R8). -/
theorem shr_getLsbD (x : BitVec w) (n i : Nat) : (shr x n).getLsbD i = (decide (i + n < w) && x.getLsbD (i + n)) := by
  rw [shr, BitVec.getLsbD_ushiftRight, Nat.add_comm]
  by_cases h : i + n < w
  · simp [h]
  · simp [h, BitVec.getLsbD_of_ge _ _ (Nat.le_of_not_lt h)]

/-- A right rotation brings to place `i` the bit `n` places above it, around the end of the word (R8). -/
theorem rotr_getLsbD (x : BitVec w) {n i : Nat} (hn : n < w) (hi : i < w) :
    (rotr x n).getLsbD i = x.getLsbD ((i + n) % w) := by
  rw [rotr_eq_rotateRight x hn, BitVec.getLsbD_rotateRight, Nat.mod_eq_of_lt hn, Bool.cond_decide]
  by_cases h : i < w - n
  · rw [if_pos h, Nat.mod_eq_of_lt (by omega), Nat.add_comm]
  · have hwrap : (i + n) % w = i - (w - n) := by
      rw [Nat.mod_eq_sub_mod (by omega), Nat.mod_eq_of_lt (by omega)]
      omega
    rw [if_neg h, hwrap, decide_eq_true hi, Bool.true_and]

/-- The form of the four small sigma functions (R155, R156). -/
theorem rotr_xor_rotr_xor_shr_getLsbD (x : BitVec w) {a b c i : Nat} (ha : a < w) (hb : b < w) (hi : i < w) :
    (rotr x a ^^^ rotr x b ^^^ shr x c).getLsbD i =
      (x.getLsbD ((i + a) % w) ^^ x.getLsbD ((i + b) % w) ^^ (decide (i + c < w) && x.getLsbD (i + c))) := by
  rw [BitVec.getLsbD_xor, BitVec.getLsbD_xor, rotr_getLsbD x ha hi, rotr_getLsbD x hb hi, shr_getLsbD]

/-- A byte put below a value (R9). -/
theorem append_byte_toNat (x : BitVec w) (b : Byte) : (x ++ b).toNat = x.toNat * 2 ^ 8 + b.toNat := by
  rw [BitVec.toNat_append, ← Nat.shiftLeft_add_eq_or_of_lt b.isLt, Nat.shiftLeft_eq]

theorem be4_toNat (b0 b1 b2 b3 : Byte) :
    (be4 b0 b1 b2 b3).toNat = b0.toNat * 2 ^ 24 + b1.toNat * 2 ^ 16 + b2.toNat * 2 ^ 8 + b3.toNat := by
  simp only [be4, append_byte_toNat]
  ring

theorem be8_toNat (b0 b1 b2 b3 b4 b5 b6 b7 : Byte) :
    (be8 b0 b1 b2 b3 b4 b5 b6 b7).toNat = b0.toNat * 2 ^ 56 + b1.toNat * 2 ^ 48 + b2.toNat * 2 ^ 40 + b3.toNat * 2 ^ 32 +
      b4.toNat * 2 ^ 24 + b5.toNat * 2 ^ 16 + b6.toNat * 2 ^ 8 + b7.toNat := by
  simp only [be8, append_byte_toNat]
  ring

theorem add4_toNat (a b c d : BitVec w) :
    (a + b + c + d).toNat = (a.toNat + b.toNat + c.toNat + d.toNat) % 2 ^ w := by
  simp only [BitVec.toNat_add, Nat.mod_add_mod]

end Words

/-- Settles O31: the four functions are of one form, with the rules' amounts. -/
theorem smallSigmaBits : Obligations.SmallSigmaBits := by
  unfold Obligations.SmallSigmaBits
  exact ⟨
    fun x _ hi => ⟨rotr_xor_rotr_xor_shr_getLsbD x (by decide) (by decide) hi,
      rotr_xor_rotr_xor_shr_getLsbD x (by decide) (by decide) hi⟩,
    fun x _ hi => ⟨rotr_xor_rotr_xor_shr_getLsbD x (by decide) (by decide) hi,
      rotr_xor_rotr_xor_shr_getLsbD x (by decide) (by decide) hi⟩⟩

/-! ## The schedule write -/

section WriteSched

variable (s : State) {v : Variant} {t : BitVec 7} (e : Elem)

theorem writeSched_W_same (ht : t.toNat < v.R) : elemAt (s.writeSched v t e).W t.toNat = e := by
  rw [writeSched_W s v t e (ht.trans_le v.R_le), if_pos rfl]

theorem writeSched_W_other (ht : t.toNat < v.R) {k : Nat} (hk : k ≠ t.toNat) :
    elemAt (s.writeSched v t e).W k = elemAt s.W k := by
  rw [writeSched_W s v t e (ht.trans_le v.R_le), if_neg hk]

theorem writeSched_BIDX : (s.writeSched v t e).BIDX = s.BIDX := State.nextSched_BIDX ..

/-- Below the last index the next position is the next index (R216). -/
theorem writeSched_position_next (ht : t.toNat + 1 < v.R) :
    (s.writeSched v t e).PHASE = phaseSCHED ∧ (s.writeSched v t e).T.toNat = t.toNat + 1 := by
  have hR := v.R_le
  simp only [State.writeSched, State.nextSched_PHASE, State.nextSched_T, if_neg ht.ne]
  exact ⟨trivial, index_succ (by omega)⟩

/-- After the last index it is `LDV` (R216). -/
theorem writeSched_position_last (ht : t.toNat + 1 = v.R) :
    (s.writeSched v t e).PHASE = phaseLDV ∧ (s.writeSched v t e).T = 0#7 := by
  simp only [State.writeSched, State.nextSched_PHASE, State.nextSched_T, if_pos ht, and_self]

end WriteSched

/-! ## The micro-operations -/

/-- Settles O26: the schedule write of the raw word, at an index before the last. -/
theorem wld32LoadsRawWord : Obligations.Wld32LoadsRawWord := by
  unfold Obligations.Wld32LoadsRawWord
  intro v t s hwf
  obtain ⟨-, ht⟩ := wf_wld32_iff.mp hwf
  have hR := v.sixteen_lt_R
  have hnext : t.toNat + 1 < v.R := by omega
  obtain ⟨hphase, hT⟩ := writeSched_position_next s (.w32 (s.rawWord32 t.toNat)) hnext
  exact ⟨_, exec_wld32 v t s, ⟨_, writeSched_W_same s _ (by omega), be4_toNat ..⟩,
    fun _ => writeSched_W_other s _ (by omega), hphase, writeSched_BIDX s _, hT, writeSched_frame s v t _⟩

/-- Settles O27: the schedule write of the raw word, at an index before the last. -/
theorem wld64LoadsRawWord : Obligations.Wld64LoadsRawWord := by
  unfold Obligations.Wld64LoadsRawWord
  intro v t s hwf
  obtain ⟨-, ht⟩ := wf_wld64_iff.mp hwf
  have hR := v.sixteen_lt_R
  have hnext : t.toNat + 1 < v.R := by omega
  obtain ⟨hphase, hT⟩ := writeSched_position_next s (.w64 (s.rawWord64 t.toNat)) hnext
  exact ⟨_, exec_wld64 v t s, ⟨_, writeSched_W_same s _ (by omega), be8_toNat ..⟩,
    fun _ => writeSched_W_other s _ (by omega), hphase, writeSched_BIDX s _, hT, writeSched_frame s v t _⟩

/-- Settles O28: the schedule write of the recurrence, whose rotation is the library's. -/
theorem wexpSha1ExpandsSchedule : Obligations.WexpSha1ExpandsSchedule := by
  unfold Obligations.WexpSha1ExpandsSchedule
  intro t s hwf
  obtain ⟨-, ht⟩ := wf_wexpSha1_iff.mp hwf
  have hR : Variant.sha1.R = 80 := rfl
  have hrotl : s.expandSha1 t.toNat =
      (s.w32 (t.toNat - 3) ^^^ s.w32 (t.toNat - 8) ^^^ s.w32 (t.toNat - 14) ^^^ s.w32 (t.toNat - 16)).rotateLeft 1 :=
    rotl_eq_rotateLeft _ (by decide)
  exact ⟨_, exec_wexpSha1 t s, hrotl ▸ writeSched_W_same s _ (by omega),
    fun _ => writeSched_W_other s _ (by omega), fun _ => writeSched_position_next s _ (by omega),
    fun _ => writeSched_position_last s _ (by omega), writeSched_BIDX s _, writeSched_frame s .sha1 t _⟩

/-- Settles O29: the schedule write of the recurrence, whose sum is reduced once. -/
theorem wexpS256ExpandsSchedule : Obligations.WexpS256ExpandsSchedule := by
  unfold Obligations.WexpS256ExpandsSchedule
  intro v t s hwf
  obtain ⟨hv, -, ht⟩ := wf_wexpS256_iff.mp hwf
  have hR := Variant.R_of_isS256 hv
  exact ⟨_, exec_wexpS256 v t s, ⟨_, writeSched_W_same s _ (by omega), add4_toNat ..⟩,
    fun _ => writeSched_W_other s _ (by omega), fun _ => writeSched_position_next s _ (by omega),
    fun _ => writeSched_position_last s _ (by omega), writeSched_BIDX s _, writeSched_frame s v t _⟩

/-- Settles O30: the schedule write of the recurrence, whose sum is reduced once. -/
theorem wexpS512ExpandsSchedule : Obligations.WexpS512ExpandsSchedule := by
  unfold Obligations.WexpS512ExpandsSchedule
  intro v t s hwf
  obtain ⟨hv, -, ht⟩ := wf_wexpS512_iff.mp hwf
  have hR := Variant.R_of_isFam64 hv
  exact ⟨_, exec_wexpS512 v t s, ⟨_, writeSched_W_same s _ (by omega), add4_toNat ..⟩,
    fun _ => writeSched_W_other s _ (by omega), fun _ => writeSched_position_next s _ (by omega),
    fun _ => writeSched_position_last s _ (by omega), writeSched_BIDX s _, writeSched_frame s v t _⟩

end Sys2Proof.Machine
end

-- ==== Proofs: the rounds (O32 to O37) ====
section
/-! The Compression Round Engine (spec/43_rounds.md): its word operations bit by bit and as numbers, what a round writes to `V`
and where it goes on, and `LDV` and the six rounds. -/

namespace Sys2Proof

/-! ## The operand ranges of the `ROUND` rows (R96) -/

section Ranges

variable {v : Variant} {t : BitVec 7}

theorem wf_rndSha1Ch_iff : (Instr.rndSha1Ch t).wf = true ↔ t.toNat ≤ 19 := by simp [Instr.wf, inRange_iff]

theorem wf_rndSha1Par1_iff : (Instr.rndSha1Par1 t).wf = true ↔ 20 ≤ t.toNat ∧ t.toNat ≤ 39 := by
  simp [Instr.wf, inRange_iff]

theorem wf_rndSha1Maj_iff : (Instr.rndSha1Maj t).wf = true ↔ 40 ≤ t.toNat ∧ t.toNat ≤ 59 := by simp [Instr.wf, inRange_iff]

theorem wf_rndSha1Par2_iff : (Instr.rndSha1Par2 t).wf = true ↔ 60 ≤ t.toNat ∧ t.toNat ≤ 79 := by
  simp [Instr.wf, inRange_iff]

theorem wf_rndS256_iff : (Instr.rndS256 v t).wf = true ↔ v.isS256 = true ∧ t.toNat ≤ 63 := by simp [Instr.wf, inRange_iff]

theorem wf_rndS512_iff : (Instr.rndS512 v t).wf = true ↔ v.isFam64 = true ∧ t.toNat ≤ 79 := by simp [Instr.wf, inRange_iff]

end Ranges

end Sys2Proof

namespace Sys2Proof.Machine

open Sys2Proof Host

/-! ## The logical functions, bit by bit (R177 to R179) -/

section Bits

variable {w i : Nat}

theorem ch_getLsbD (x y z : BitVec w) (hi : i < w) :
    (ch x y z).getLsbD i = if x.getLsbD i then y.getLsbD i else z.getLsbD i := by
  simp only [ch, BitVec.getLsbD_xor, BitVec.getLsbD_and, BitVec.getLsbD_not, hi, decide_true, Bool.true_and]
  cases x.getLsbD i <;> simp

/-- The exclusive or of the three pairwise conjunctions is the majority of three bits. -/
theorem xor_and_eq_majority (a b c : Bool) :
    ((a && b) ^^ (a && c) ^^ (b && c)) = decide (2 ≤ a.toNat + b.toNat + c.toNat) := by
  revert a b c
  decide

/-- The exclusive or of three bits says whether an odd number of them are 1. -/
theorem xor_eq_odd (a b c : Bool) : (a ^^ b ^^ c) = decide ((a.toNat + b.toNat + c.toNat) % 2 = 1) := by
  revert a b c
  decide

theorem maj_getLsbD (x y z : BitVec w) (i : Nat) : (maj x y z).getLsbD i =
    decide (2 ≤ (x.getLsbD i).toNat + (y.getLsbD i).toNat + (z.getLsbD i).toNat) := by
  rw [← xor_and_eq_majority]
  simp only [maj, BitVec.getLsbD_xor, BitVec.getLsbD_and]

theorem parity_getLsbD (x y z : BitVec w) (i : Nat) : (parity x y z).getLsbD i =
    decide (((x.getLsbD i).toNat + (y.getLsbD i).toNat + (z.getLsbD i).toNat) % 2 = 1) := by
  rw [← xor_eq_odd]
  simp only [parity, BitVec.getLsbD_xor]

/-- The form of the four capital sigma functions (R178, R179). -/
theorem rotr_xor_rotr_xor_rotr_getLsbD (x : BitVec w) {a b c : Nat} (ha : a < w) (hb : b < w) (hc : c < w) (hi : i < w) :
    (rotr x a ^^^ rotr x b ^^^ rotr x c).getLsbD i =
      (x.getLsbD ((i + a) % w) ^^ x.getLsbD ((i + b) % w) ^^ x.getLsbD ((i + c) % w)) := by
  rw [BitVec.getLsbD_xor, BitVec.getLsbD_xor, rotr_getLsbD x ha hi, rotr_getLsbD x hb hi, rotr_getLsbD x hc hi]

end Bits

/-- Settles O32: each function on the bits at one place. -/
theorem logicalFunctionBits : Obligations.LogicalFunctionBits := by
  unfold Obligations.LogicalFunctionBits
  exact fun _ x y z i hi => ⟨ch_getLsbD x y z hi, maj_getLsbD x y z i, parity_getLsbD x y z i⟩

/-- Settles O33: the four functions are of one form, with the rules' amounts. -/
theorem capitalSigmaBits : Obligations.CapitalSigmaBits := by
  unfold Obligations.CapitalSigmaBits
  exact ⟨
    fun x _ hi => ⟨rotr_xor_rotr_xor_rotr_getLsbD x (by decide) (by decide) (by decide) hi,
      rotr_xor_rotr_xor_rotr_getLsbD x (by decide) (by decide) (by decide) hi⟩,
    fun x _ hi => ⟨rotr_xor_rotr_xor_rotr_getLsbD x (by decide) (by decide) (by decide) hi,
      rotr_xor_rotr_xor_rotr_getLsbD x (by decide) (by decide) (by decide) hi⟩⟩

/-! ## The sums of the rounds, reduced once (R180, R181) -/

section Sums

variable {n p q : Nat} {a b : BitVec n}

theorem add5_toNat (a b c d e : BitVec n) :
    (a + b + c + d + e).toNat = (a.toNat + b.toNat + c.toNat + d.toNat + e.toNat) % 2 ^ n := by
  rw [BitVec.toNat_add, add4_toNat, Nat.mod_add_mod]

theorem add_toNat_of_mod (ha : a.toNat = p % 2 ^ n) (hb : b.toNat = q % 2 ^ n) : (a + b).toNat = (p + q) % 2 ^ n := by
  rw [BitVec.toNat_add, ha, hb, ← Nat.add_mod]

theorem add_toNat_of_mod_right (hb : b.toNat = q % 2 ^ n) : (a + b).toNat = (a.toNat + q) % 2 ^ n := by
  rw [BitVec.toNat_add, hb, Nat.add_mod_mod]

theorem sha2T1_toNat (bigSigma1 : BitVec n → BitVec n) (k w : BitVec n) (x : Work8 (BitVec n)) :
    (sha2T1 bigSigma1 k w x).toNat =
      (x.h.toNat + (bigSigma1 x.e).toNat + (ch x.e x.f x.g).toNat + k.toNat + w.toNat) % 2 ^ n := add5_toNat ..

theorem sha2T2_toNat (bigSigma0 : BitVec n → BitVec n) (x : Work8 (BitVec n)) :
    (sha2T2 bigSigma0 x).toNat = ((bigSigma0 x.a).toNat + (maj x.a x.b x.c).toNat) % 2 ^ n := BitVec.toNat_add ..

theorem sha1Round_a_toNat (fn : Word32 → Word32 → Word32 → Word32) (k w : Word32) (x : Work5 Word32) :
    (sha1Round fn k w x).a.toNat =
      ((x.a.rotateLeft 5).toNat + (fn x.b x.c x.d).toNat + x.e.toNat + k.toNat + w.toNat) % 2 ^ 32 := by
  rw [← rotl_eq_rotateLeft x.a (by decide)]
  exact add5_toNat ..

theorem sha1Round_c (fn : Word32 → Word32 → Word32 → Word32) (k w : Word32) (x : Work5 Word32) :
    (sha1Round fn k w x).c = x.b.rotateLeft 30 := rotl_eq_rotateLeft x.b (by decide)

end Sums

/-! ## The working variables in `V` -/

section WorkingState

variable {α : Type} {m i : Nat} {v : Variant} {s : State}

theorem elemAt_overwrite_of_ge {es : List Elem} (xs : Vector Elem m) (hi : es.length ≤ i) :
    elemAt (overwrite es xs) i = elemAt xs i := by
  by_cases him : i < m
  · rw [elemAt_overwrite es xs him, List.getD_eq_default _ _ hi]
  · rw [elemAt_out _ (by omega), elemAt_out _ (by omega)]

/-- SHA-1's working variables by name (R22). -/
theorem BeginsWith.work5 {xs : Vector Elem m} {f : α → Elem} {x : Work5 α} (h : BeginsWith xs (x.toList.map f)) :
    elemAt xs 0 = f x.a ∧ elemAt xs 1 = f x.b ∧ elemAt xs 2 = f x.c ∧ elemAt xs 3 = f x.d ∧ elemAt xs 4 = f x.e :=
  have h5 : ∀ i (hi : i < 5), elemAt xs i = (x.toList.map f)[i] := h
  ⟨h5 0 (by decide), h5 1 (by decide), h5 2 (by decide), h5 3 (by decide), h5 4 (by decide)⟩

/-- SHA-2's working variables by name (R22). -/
theorem BeginsWith.work8 {xs : Vector Elem m} {f : α → Elem} {x : Work8 α} (h : BeginsWith xs (x.toList.map f)) :
    elemAt xs 0 = f x.a ∧ elemAt xs 1 = f x.b ∧ elemAt xs 2 = f x.c ∧ elemAt xs 3 = f x.d ∧
      elemAt xs 4 = f x.e ∧ elemAt xs 5 = f x.f ∧ elemAt xs 6 = f x.g ∧ elemAt xs 7 = f x.h :=
  have h8 : ∀ i (hi : i < 8), elemAt xs i = (x.toList.map f)[i] := h
  ⟨h8 0 (by decide), h8 1 (by decide), h8 2 (by decide), h8 3 (by decide),
    h8 4 (by decide), h8 5 (by decide), h8 6 (by decide), h8 7 (by decide)⟩

theorem elemAt_loadV_of_lt (hi : i < v.NV) :
    elemAt (loadV v s) i = if v.isFam64 then .w64 (s.h64 i) else .w32 (s.h32 i) := by
  rw [elemAt_loadV v s (hi.trans_le v.NV_le), if_pos hi]

/-- `LDV` loads the words of the variant alone. -/
theorem elemAt_loadV_of_ge (hi : v.NV ≤ i) : elemAt (loadV v s) i = elemAt s.V i := by
  by_cases hi8 : i < 8
  · rw [elemAt_loadV v s hi8, if_neg (by omega)]
  · rw [elemAt_out _ (by omega), elemAt_out _ (by omega)]

/-- `LDV` copies a word of the variant's width as it is. -/
theorem elemAt_loadV_of_holds (hi : i < v.NV) (h : (elemAt s.H i).holds v = true) :
    elemAt (loadV v s) i = elemAt s.H i := by
  rw [elemAt_loadV_of_lt hi]
  cases hv : v.isFam64 with
  | false => exact (Elem.to32_holds h hv _).symm
  | true => exact (Elem.to64_holds h hv _).symm

end WorkingState

/-! ## The state after a round -/

section Round

variable (s : State) (v : Variant) (t : BitVec 7) {es : List Elem}

/-- A round writes its working variables to the first elements of `V`. -/
theorem beginsWith_round (hes : es.length ≤ 8) :
    BeginsWith ((s.setV (overwrite es s.V)).nextRound v t).V es := by
  rw [State.nextRound_V]
  exact beginsWith_overwrite hes s.V

/-- It leaves the other elements alone. -/
theorem round_V_of_ge {i : Nat} (hi : es.length ≤ i) :
    elemAt ((s.setV (overwrite es s.V)).nextRound v t).V i = elemAt s.V i := by
  rw [State.nextRound_V]
  exact elemAt_overwrite_of_ge s.V hi

variable {v t}

/-- Below the last index the next position is the next index (R216). -/
theorem nextRound_position_next (ht : t.toNat + 1 < v.R) :
    (s.nextRound v t).PHASE = phaseROUND ∧ (s.nextRound v t).T.toNat = t.toNat + 1 := by
  have hR := v.R_le
  simp only [State.nextRound_PHASE, State.nextRound_T, if_neg ht.ne]
  exact ⟨trivial, index_succ (by omega)⟩

/-- After the last index it is `ACC` (R216). -/
theorem nextRound_position_last (ht : t.toNat + 1 = v.R) :
    (s.nextRound v t).PHASE = phaseACC ∧ (s.nextRound v t).T = 0#7 := by
  simp only [State.nextRound_PHASE, State.nextRound_T, if_pos ht, and_self]

end Round

/-! ## The micro-operations -/

/-- Settles O34: the file `LDV` writes, element by element; every other field is as before. -/
theorem ldvLoadsWorkingState : Obligations.LdvLoadsWorkingState := by
  unfold Obligations.LdvLoadsWorkingState
  exact fun v s => ⟨_, exec_ldv v s, fun _ hi => ⟨elemAt_loadV_of_lt hi, elemAt_loadV_of_holds hi⟩,
    fun _ => elemAt_loadV_of_ge, rfl, rfl, rfl, rfl, rfl, rfl, setV_setSEQ_keepsRest ..⟩

/-- Settles O35: the four instructions are the one round of R180, each with the function and the constant of its row. -/
theorem sha1RoundsUpdateWorkingState : Obligations.Sha1RoundsUpdateWorkingState := by
  unfold Obligations.Sha1RoundsUpdateWorkingState
  intro i fn k t s hrow hwf
  have hR : Variant.sha1.R = 80 := rfl
  obtain ⟨j, hexec, rfl, ht⟩ : ∃ j, exec i s = .next (s.roundSha1 fn j t) ∧ (k1 j).toNat = k ∧ t.toNat ≤ 79 := by
    obtain ⟨rfl, rfl, rfl⟩ | ⟨rfl, rfl, rfl⟩ | ⟨rfl, rfl, rfl⟩ | ⟨rfl, rfl, rfl⟩ := hrow
    · exact ⟨0, exec_rndSha1Ch t s, rfl, (wf_rndSha1Ch_iff.mp hwf).trans (by decide)⟩
    · exact ⟨1, exec_rndSha1Par1 t s, rfl, (wf_rndSha1Par1_iff.mp hwf).right.trans (by decide)⟩
    · exact ⟨2, exec_rndSha1Maj t s, rfl, (wf_rndSha1Maj_iff.mp hwf).right.trans (by decide)⟩
    · exact ⟨3, exec_rndSha1Par2 t s, rfl, (wf_rndSha1Par2_iff.mp hwf).right⟩
  have hlen : ((sha1Round fn (k1 j) (s.w32 t.toNat) s.work5).toList.map Elem.w32).length = 5 := rfl
  obtain ⟨ha, hb, hc, hd, he⟩ := (beginsWith_round s .sha1 t (hlen.trans_le (by decide))).work5
  rw [sha1Round_c] at hc
  exact ⟨_, hexec, ⟨_, ha, sha1Round_a_toNat ..⟩, hb, hc, hd, he,
    fun _ hj => round_V_of_ge s .sha1 t (hlen.trans_le hj), fun _ => nextRound_position_next _ (by omega),
    fun _ => nextRound_position_last _ (by omega), State.nextRound_BIDX .., setV_nextRound_frame ..⟩

/-- Settles O36: the words of the round by name, whose sums are reduced once. -/
theorem rndS256UpdatesWorkingState : Obligations.RndS256UpdatesWorkingState := by
  unfold Obligations.RndS256UpdatesWorkingState
  intro v t s hwf
  obtain ⟨hv, ht⟩ := wf_rndS256_iff.mp hwf
  have hR := Variant.R_of_isS256 hv
  obtain ⟨ha, hb, hc, hd, he, hf, hg, hh⟩ := (beginsWith_round s v t (es :=
    (sha2Round bigSigma0_256 bigSigma1_256 (k256 t.toNat) (s.w32 t.toNat) s.work8x32).toList.map .w32) le_rfl).work8
  exact ⟨_, exec_rndS256 v t s,
    ⟨_, _, _, _, rfl, rfl, ha, add_toNat_of_mod (sha2T1_toNat ..) (sha2T2_toNat ..), he,
      add_toNat_of_mod_right (sha2T1_toNat ..)⟩,
    hb, hc, hd, hf, hg, hh, fun _ => nextRound_position_next _ (by omega),
    fun _ => nextRound_position_last _ (by omega), State.nextRound_BIDX .., setV_nextRound_frame ..⟩

/-- Settles O37: the words of the round by name, whose sums are reduced once. -/
theorem rndS512UpdatesWorkingState : Obligations.RndS512UpdatesWorkingState := by
  unfold Obligations.RndS512UpdatesWorkingState
  intro v t s hwf
  obtain ⟨hv, ht⟩ := wf_rndS512_iff.mp hwf
  have hR := Variant.R_of_isFam64 hv
  obtain ⟨ha, hb, hc, hd, he, hf, hg, hh⟩ := (beginsWith_round s v t (es :=
    (sha2Round bigSigma0_512 bigSigma1_512 (k512 t.toNat) (s.w64 t.toNat) s.work8x64).toList.map .w64) le_rfl).work8
  exact ⟨_, exec_rndS512 v t s,
    ⟨_, _, _, _, rfl, rfl, ha, add_toNat_of_mod (sha2T1_toNat ..) (sha2T2_toNat ..), he,
      add_toNat_of_mod_right (sha2T1_toNat ..)⟩,
    hb, hc, hd, hf, hg, hh, fun _ => nextRound_position_next _ (by omega),
    fun _ => nextRound_position_last _ (by omega), State.nextRound_BIDX .., setV_nextRound_frame ..⟩

end Sys2Proof.Machine
end

-- ==== Proofs: the accumulation and the digest (O38 to O42) ====
section
/-! The Digest Assembler (spec/44_digest.md): `ACC`, the output selector with the digest bytes read off it, and that no step
changes the digest while it is there. -/

namespace Sys2Proof

theorem Variant.isFam64_eq_false {v : Variant} (h : v.isFam32 = true) : v.isFam64 = false := by
  simpa [Variant.isFam32] using h

theorem Variant.doutCount_of_fam32 {v : Variant} (h : v.isFam64 = false) : v.doutCount = v.NOUT := by
  simp [Variant.doutCount, Variant.ww, h]

theorem Variant.doutCount_of_fam64 {v : Variant} (h : v.isFam64 = true) : v.doutCount = v.NOUT * 2 := by
  simp [Variant.doutCount, Variant.ww, h]

theorem Variant.wb_of_fam32 {v : Variant} (h : v.isFam64 = false) : v.wb = 4 := by simp [Variant.wb, h]

theorem Variant.wb_of_fam64 {v : Variant} (h : v.isFam64 = true) : v.wb = 8 := by simp [Variant.wb, h]

end Sys2Proof

namespace Sys2Proof.Machine

open Sys2Proof Host

/-! ## `ACC` (R200) -/

section Acc

variable {v : Variant} {s t : State} {i : Nat}

theorem elemAt_accumulate_of_lt (hi : i < v.NV) : elemAt (accumulate v s) i =
    if v.isFam64 then .w64 (s.h64 i + s.v64 i) else .w32 (s.h32 i + s.v32 i) := by
  rw [elemAt_accumulate v s (hi.trans_le v.NV_le), if_pos hi]

/-- `ACC` adds into the words of the variant alone. -/
theorem elemAt_accumulate_of_ge (hi : v.NV ≤ i) : elemAt (accumulate v s) i = elemAt s.H i := by
  by_cases hi8 : i < 8
  · rw [elemAt_accumulate v s hi8, if_neg (by omega)]
  · rw [elemAt_out _ (by omega), elemAt_out _ (by omega)]

/-- The sums are modulo the word size of the family. -/
theorem elemAt_accumulate_toNat (hi : i < v.NV) :
    (v.isFam32 = true → ∃ x : Word32, elemAt (accumulate v s) i = .w32 x ∧
      x.toNat = ((s.h32 i).toNat + (s.v32 i).toNat) % 2 ^ 32) ∧
    (v.isFam64 = true → ∃ x : Word64, elemAt (accumulate v s) i = .w64 x ∧
      x.toNat = ((s.h64 i).toNat + (s.v64 i).toNat) % 2 ^ 64) := by
  rw [elemAt_accumulate_of_lt hi]
  refine ⟨fun h32 => ⟨_, ?_, BitVec.toNat_add ..⟩, fun h64 => ⟨_, if_pos h64, BitVec.toNat_add ..⟩⟩
  rw [if_neg (by simp [Variant.isFam64_eq_false h32])]

/-- What `ACC` does on every block. -/
theorem execAcc_frame (h : execAcc v s = .next t) :
    t.H = accumulate v s ∧ t.ERR = s.ERR ∧ t.V = s.V ∧ t.W = s.W ∧ t.M = s.M ∧ s.KeepsMSG t ∧ t.msgReads = s.msgReads := by
  obtain ⟨-, rfl⟩ | ⟨-, rfl⟩ := execAcc_next h <;> exact ⟨rfl, rfl, rfl, rfl, rfl, fun _ => rfl, rfl⟩

/-- The `ACC` of the last block ends the invocation. -/
theorem execAcc_last (hlast : s.BIDX.toNat + 1 = s.NBLK.toNat) (h : execAcc v s = .next t) :
    t.BUSY = false ∧ t.DONE = true ∧ t.PHASE = phaseIDLE ∧ t.BIDX = 0#119 ∧ t.T = 0#7 := by
  obtain ⟨-, rfl⟩ | ⟨hnext, -⟩ := execAcc_next h
  · exact ⟨rfl, rfl, rfl, rfl, rfl⟩
  · exact absurd hlast hnext

/-- The `ACC` of an earlier block goes on to the next one. -/
theorem execAcc_notLast (hnext : s.BIDX.toNat + 1 ≠ s.NBLK.toNat) (h : execAcc v s = .next t) :
    t.BUSY = s.BUSY ∧ t.DONE = s.DONE ∧ t.PHASE = phasePAD ∧ t.BIDX = s.BIDX + 1#119 ∧ t.T = 0#7 := by
  obtain ⟨hlast, -⟩ | ⟨-, rfl⟩ := execAcc_next h
  · exact absurd hlast hnext
  · exact ⟨rfl, rfl, rfl, rfl, rfl⟩

end Acc

/-- Settles O38: the words `ACC` writes to `H`, and what it does on the last block and on an earlier one. -/
theorem accAddsWorkingState : Obligations.AccAddsWorkingState := by
  unfold Obligations.AccAddsWorkingState
  intro v s
  obtain ⟨t, hex⟩ := exec_micro_next (i := .acc v) rfl s
  obtain ⟨hparameters, hlen, henvironment⟩ := exec_micro_keepsOutside rfl hex
  have hacc : execAcc v s = .next t := exec_acc v s ▸ hex
  obtain ⟨hH, hERR, hV, hW, hM, hmsg, hreads⟩ := execAcc_frame hacc
  refine ⟨t, hex, ?_⟩
  rw [hH]
  exact ⟨fun _ => elemAt_accumulate_toNat, fun _ => elemAt_accumulate_of_ge, fun hlast => execAcc_last hlast hacc,
    fun hnext => execAcc_notLast hnext hacc, hERR, hV, hW, hM, hparameters, hlen, hmsg, henvironment, hreads⟩

/-! ## The output selector (R203, R204) -/

section Dout

variable {v : Variant} {s : State} {i j : Nat}

theorem dout_of_done (hv : s.variant? = some v) (hd : s.DONE = true) (j : Nat) : s.dout j = doutOf v s j := by
  simp [State.dout, hd, hv]

theorem dout_of_ge_doutCount (hv : s.variant? = some v) (hj : v.doutCount ≤ j) : s.dout j = 0#32 :=
  dout_past_digest (by simpa [State.inDigest, hv] using hj)

theorem doutOf_of_fam32 (hf : v.isFam64 = false) (hj : j < v.NOUT) : doutOf v s j = s.h32 j := by
  simp [doutOf, hf, hj]

/-- The even registers show the upper halves. -/
theorem doutOf_even (hf : v.isFam64 = true) (hi : i < v.NOUT) : doutOf v s (2 * i) = (s.h64 i).extractLsb' 32 32 := by
  simp [doutOf, hf, hi]

/-- The odd registers show the lower halves. -/
theorem doutOf_odd (hf : v.isFam64 = true) (hi : i < v.NOUT) : doutOf v s (2 * i + 1) = (s.h64 i).extractLsb' 0 32 := by
  have hdiv : (2 * i + 1) / 2 = i := by omega
  simp [doutOf, hf, hi, hdiv]

end Dout

/-- Settles O39: a register of the digest, one past it, and `DONE = 0`. -/
theorem doutOf32BitFamily : Obligations.DoutOf32BitFamily := by
  unfold Obligations.DoutOf32BitFamily
  intro s v j hv h32 _
  have hf := Variant.isFam64_eq_false h32
  refine ⟨fun x hd hj hx => ?_, fun hj => ?_, fun hd => dout_of_not_done hd j⟩
  · rw [dout_of_done hv hd, doutOf_of_fam32 hf hj, State.h32, hx, Elem.to32]
  · exact dout_of_ge_doutCount hv ((Variant.doutCount_of_fam32 hf).trans_le hj)

/-- Settles O40: the pair of registers of a digest word, a pair past the digest, and `DONE = 0`. -/
theorem doutOf64BitFamily : Obligations.DoutOf64BitFamily := by
  unfold Obligations.DoutOf64BitFamily
  intro s v i hv hf _
  have hcount := Variant.doutCount_of_fam64 hf
  refine ⟨fun x hd hi hx => ?_, fun hi => ?_, fun hd => ⟨dout_of_not_done hd _, dout_of_not_done hd _⟩⟩
  · have hword : s.h64 i = x := by rw [State.h64, hx, Elem.to64]
    rw [dout_of_done hv hd, dout_of_done hv hd, doutOf_even hf hi, doutOf_odd hf hi, hword]
    simp only [BitVec.extractLsb'_toNat, Nat.shiftRight_eq_div_pow]
    omega
  · exact ⟨dout_of_ge_doutCount hv (by omega), dout_of_ge_doutCount hv (by omega)⟩

/-! ## The digest bytes (R205) -/

/-- A byte of a part of a word is a byte of the word. -/
theorem beByte_extractLsb' {w n m k i j : Nat} (x : BitVec w) (hi : i < n) (h : n - 1 - i + k = m - 1 - j) :
    beByte n (x.extractLsb' (8 * k) (8 * n)) i = beByte m x j := by
  unfold beByte
  ext b hb
  simp only [BitVec.getElem_extractLsb', BitVec.getLsbD_extractLsb', ← h]
  rw [decide_eq_true (by omega), Bool.true_and]
  congr 1
  omega

/-- Settles O41: register `i` holds the bytes of a 32-bit word; registers `2i` and `2i + 1` hold the first four and the last
four bytes of a 64-bit word. -/
theorem digestBytesFromDout : Obligations.DigestBytesFromDout := by
  unfold Obligations.DigestBytesFromDout
  intro s v i m hv hd hi hm
  simp only [dout_of_done hv hd]
  refine ⟨fun h32 => ?_, fun hf => ?_⟩
  · have hf := Variant.isFam64_eq_false h32
    rw [Variant.wb_of_fam32 hf] at hm ⊢
    have hreg : (4 * i + m) / 4 = i := by omega
    have hbyte : (4 * i + m) % 4 = m := by omega
    rw [hreg, hbyte, doutOf_of_fam32 hf hi]
  · rw [Variant.wb_of_fam64 hf] at hm ⊢
    obtain hlt | hge := Nat.lt_or_ge m 4
    · have hreg : (8 * i + m) / 4 = 2 * i := by omega
      rw [hreg, doutOf_even hf hi]
      exact beByte_extractLsb' (k := 4) (n := 4) _ (by omega) (by omega)
    · have hreg : (8 * i + m) / 4 = 2 * i + 1 := by omega
      rw [hreg, doutOf_odd hf hi]
      exact beByte_extractLsb' (k := 0) (n := 4) _ (by omega) (by omega)

/-! ## The digest once produced (R206) -/

section Produced

variable {v : Variant} {s t : State}

/-- The finished result is as before. -/
structure State.KeepsResult (s t : State) : Prop where
  H : t.H = s.H
  VAR : t.VAR = s.VAR
  PHASE : t.PHASE = s.PHASE
  DONE : t.DONE = s.DONE

/-- A command accepted, whatever its length, latches its variant and length and clears `DONE` (R115). -/
theorem digestCommand_accepted (hb : s.BUSY = false) (h : digestCommand v s = .next t) :
    t.VAR = v.code ∧ t.L = s.bitLength ∧ t.DONE = false := by
  obtain ⟨hb', -⟩ | ⟨-, -, rfl⟩ | ⟨-, -, -, rfl⟩ := digestCommand_next h
  · cases hb.symm.trans hb'
  · exact ⟨rfl, rfl, rfl⟩
  · exact ⟨rfl, rfl, rfl⟩

/-- A step of an idle engine keeps the result, releases an asserted `rst`, or accepts a command. -/
theorem State.Idle.step_result {u : Variant} (h : s.Idle u) (hst : step s = .next t) :
    s.KeepsResult t ∨ (s.resetNext = true ∧ t.DONE = false) ∨
      ∃ v ts, s.WritesCMD (commandWord v) ts ∧ t.VAR = v.code ∧ t.L = s.bitLength ∧ t.DONE = false := by
  cases step_cases hst with
  | micro ts i _ _ hp => exact absurd h.PHASE hp
  | command ts w v _ _ hw hd hex =>
    have haccepted := digestCommand_accepted (s := (s.setTurns ts).setHeld none) h.BUSY hex
    exact .inr (.inr ⟨v, ts, decodeCommand_eq_digestInstr_iff.mp hd ▸ hw, haccepted⟩)
  | releaseRst ts hts hrst => exact .inr (.inl ⟨by simp [State.resetNext, hts, hrst], rfl⟩)
  | len ts n x => exact .inl (by constructor <;> simp)
  | assertRst | noEffect | readInReset | idle | discard | read | place => exact .inl ⟨rfl, rfl, rfl, rfl⟩

/-- While the result stays, so does what the output selector shows. -/
theorem State.KeepsResult.dout_eq (hk : s.KeepsResult t) (h : s.Idle v) (j : Nat) : t.dout j = s.dout j :=
  dout_eq_of_agree hk.DONE hk.VAR (fun hd => ⟨v, variant?_eq h.VAR, fun i hi =>
    hk.H ▸ (h.hash hd).agree i (hi.trans_le v.NOUT_le_NV)⟩) j

/-- A command comes from the held write or from the host's turn. -/
theorem State.WritesCMD.source {w : Word32} {ts : List Turn} (h : s.WritesCMD w ts) :
    s.held = some w ∨ ∃ ts, s.turns = .host (.write 0#5 w) :: ts := by
  obtain ⟨hheld, -⟩ | ⟨-, hts⟩ := h
  · exact .inl hheld
  · exact .inr ⟨ts, hts⟩

end Produced

/-- Settles O42: with `DONE = 1` the engine is idle, and a step of an idle engine keeps the result, releases `rst`, or accepts a
command. -/
theorem digestImmutableOnceProduced : Obligations.DigestImmutableOnceProduced := by
  unfold Obligations.DigestImmutableOnceProduced
  intro s t hinv hd hst
  obtain ⟨hbusy, -, -⟩ := hinv.control.oneFlag
  obtain ⟨u, hidle⟩ := hinv.idle (by simpa [hd] using hbusy)
  obtain hkeep | ⟨hreset, hd'⟩ | ⟨v, ts, hw, hVAR, hL, hd'⟩ := hidle.step_result hst
  · exact ⟨fun _ => ⟨hkeep.PHASE.trans hidle.PHASE, hkeep.H, hkeep.VAR, hkeep.dout_eq hidle⟩,
      fun hd' => by cases hd'.symm.trans (hkeep.DONE.trans hd)⟩
  · exact ⟨fun h => (by cases h.symm.trans hd'), fun _ => .inl hreset⟩
  · exact ⟨fun h => (by cases h.symm.trans hd'), fun _ => .inr ⟨v, hVAR, hL, hw.source⟩⟩

end Sys2Proof.Machine
end

-- ==== Proofs: the sequencer (O44, O46, O51) ====
section
/-! The engine's own step (spec/45_sequencer.md R215), the next-position table (R216) and the number of steps of an invocation
(R218). -/

namespace Sys2Proof.Machine

open Sys2Proof Host

/-! ## The engine's turn (R215) -/

section Turn

variable {s : State}

/-- An engine turn that is next and not kept waiting is taken. -/
theorem step_engineNext {ts : List Turn} (hturns : s.turns = .engine :: ts) (hheld : s.held = none) (hrst : s.RST = false) :
    step s = engineTurn (s.setTurns ts) := by
  have hnext : s.rstNext = false := by simp [State.rstNext, hturns]
  simp [step, takeTurn, hnext, hrst, hheld, freeTurn, hturns, State.engineTurnTaken]

/-- Outside `IDLE` the engine's turn performs the micro-operation of the step word. -/
theorem engineTurn_micro {i : Instr} (hp : s.PHASE ≠ phaseIDLE) (hd : decodeStepWord s.stepWord = .ok i) :
    engineTurn s = exec i s.nextTick := by
  rw [engineTurn, if_neg hp, hd]

end Turn

/-- Settles O44: with no turn listed the step is the engine's by default, with an engine turn listed it uses that one up, which
leaves the step word alone. -/
theorem engineStepRunsDecodedMicroOp : Obligations.EngineStepRunsDecodedMicroOp := by
  unfold Obligations.EngineStepRunsDecodedMicroOp
  intro s i hp hd hrst
  refine ⟨fun hturns hheld => step_micro ⟨hturns, hheld, hrst⟩ hp hd, fun ts hturns hheld => ?_⟩
  rw [step_engineNext hturns hheld hrst]
  exact engineTurn_micro (s := s.setTurns ts) hp hd

/-! ## The next position, phase by phase (R216) -/

section Position

variable {v : Variant} {len : BitVec 128} {msg : Nat → Byte} {s t : State}

theorem State.Runs.position_after_pad (h : s.Runs v len msg) (hst : step s = .next t) (hp : s.PHASE = phasePAD)
    (hT : s.T = 0#7) : t.PHASE = phaseSCHED ∧ t.BIDX = s.BIDX ∧ t.T = 0#7 := by
  cases (h.step_pad hp hT).symm.trans hst
  exact ⟨rfl, rfl, rfl⟩

theorem State.Runs.position_after_sched (h : s.Runs v len msg) (hst : step s = .next t) (hp : s.PHASE = phaseSCHED)
    (hT : s.T.toNat + 1 < v.R) : t.PHASE = phaseSCHED ∧ t.BIDX = s.BIDX ∧ t.T.toNat = s.T.toNat + 1 := by
  cases (h.step_sched hp (Nat.lt_of_succ_lt hT)).symm.trans hst
  obtain ⟨hphase, hindex⟩ := writeSched_position_next s.nextTick (s.nextTick.schedElem v s.T.toNat) hT
  exact ⟨hphase, writeSched_BIDX .., hindex⟩

theorem State.Runs.position_after_lastSched (h : s.Runs v len msg) (hst : step s = .next t) (hp : s.PHASE = phaseSCHED)
    (hT : s.T.toNat + 1 = v.R) : t.PHASE = phaseLDV ∧ t.BIDX = s.BIDX ∧ t.T = 0#7 := by
  cases (h.step_sched hp (Nat.lt_of_succ_le hT.le)).symm.trans hst
  obtain ⟨hphase, hindex⟩ := writeSched_position_last s.nextTick (s.nextTick.schedElem v s.T.toNat) hT
  exact ⟨hphase, writeSched_BIDX .., hindex⟩

theorem State.Runs.position_after_ldv (h : s.Runs v len msg) (hst : step s = .next t) (hp : s.PHASE = phaseLDV)
    (hT : s.T = 0#7) : t.PHASE = phaseROUND ∧ t.BIDX = s.BIDX ∧ t.T = 0#7 := by
  cases (h.step_ldv hp hT).symm.trans hst
  exact ⟨rfl, rfl, rfl⟩

theorem State.Runs.position_after_round (h : s.Runs v len msg) (hst : step s = .next t) (hp : s.PHASE = phaseROUND)
    (hT : s.T.toNat + 1 < v.R) : t.PHASE = phaseROUND ∧ t.BIDX = s.BIDX ∧ t.T.toNat = s.T.toNat + 1 := by
  cases (h.step_round hp (Nat.lt_of_succ_lt hT)).symm.trans hst
  obtain ⟨hphase, hindex⟩ := nextRound_position_next
    (s.nextTick.setV (overwrite (s.nextTick.roundElems v s.T.toNat) s.nextTick.V)) hT
  exact ⟨hphase, State.nextRound_BIDX .., hindex⟩

theorem State.Runs.position_after_lastRound (h : s.Runs v len msg) (hst : step s = .next t) (hp : s.PHASE = phaseROUND)
    (hT : s.T.toNat + 1 = v.R) : t.PHASE = phaseACC ∧ t.BIDX = s.BIDX ∧ t.T = 0#7 := by
  cases (h.step_round hp (Nat.lt_of_succ_le hT.le)).symm.trans hst
  obtain ⟨hphase, hindex⟩ := nextRound_position_last
    (s.nextTick.setV (overwrite (s.nextTick.roundElems v s.T.toNat) s.nextTick.V)) hT
  exact ⟨hphase, State.nextRound_BIDX .., hindex⟩

theorem State.Runs.position_after_acc (h : s.Runs v len msg) (hst : step s = .next t) (hp : s.PHASE = phaseACC)
    (hT : s.T = 0#7) (hblock : s.BIDX.toNat + 1 < s.NBLK.toNat) :
    t.PHASE = phasePAD ∧ t.BIDX.toNat = s.BIDX.toNat + 1 ∧ t.T = 0#7 := by
  rw [h.step_acc hp hT] at hst
  obtain ⟨-, -, hphase, hBIDX, hindex⟩ := execAcc_notLast (s := s.nextTick) hblock.ne hst
  exact ⟨hphase, hBIDX ▸ BIDX_succ (Nat.lt_of_succ_lt hblock), hindex⟩

theorem State.Runs.position_after_lastAcc (h : s.Runs v len msg) (hst : step s = .next t) (hp : s.PHASE = phaseACC)
    (hT : s.T = 0#7) (hblock : s.BIDX.toNat + 1 = s.NBLK.toNat) :
    t.PHASE = phaseIDLE ∧ t.BIDX = 0#119 ∧ t.T = 0#7 := by
  rw [h.step_acc hp hT] at hst
  obtain ⟨-, -, hposition⟩ := execAcc_last (s := s.nextTick) hblock hst
  exact hposition

/-- A busy state that meets the invariant runs an invocation of the variant it has latched. -/
theorem State.Inv.invocation_of_variant (h : s.Inv) (hv : s.variant? = some v) (hbusy : s.BUSY = true) : s.Invocation v := by
  obtain ⟨u, hu⟩ := h.invocation (h.control.busy.mp hbusy)
  cases code_injective (hu.VAR.symm.trans (code_of_ofCode hv))
  exact hu

end Position

/-- Settles O46: the invariant gives an invocation, whose step completes; each row is the position its phase leads to. -/
theorem nextPositionTable : Obligations.NextPositionTable := by
  unfold Obligations.NextPositionTable
  intro s v hinv hv halone hbusy
  have h : s.Invocation v := hinv.invocation_of_variant hv hbusy
  have hr := h.runs halone
  obtain ⟨t, hst, -⟩ := h.step hr
  have hindex : s.T.toNat < v.R := h.data.index
  have hnoIndex := h.data.noIndex
  exact ⟨t, hst,
    fun hp => hr.position_after_pad hst hp (hnoIndex (.inl hp)),
    fun hp hT => hr.position_after_sched hst hp (by omega),
    fun hp hT => hr.position_after_lastSched hst hp (by omega),
    fun hp => hr.position_after_ldv hst hp (hnoIndex (.inr (.inl hp))),
    fun hp hT => hr.position_after_round hst hp (by omega),
    fun hp hT => hr.position_after_lastRound hst hp (by omega),
    fun hp => hr.position_after_acc hst hp (hnoIndex (.inr (.inr hp))),
    fun hp => hr.position_after_lastAcc hst hp (hnoIndex (.inr (.inr hp)))⟩

/-! ## The steps of an invocation (R218) -/

section Termination

variable {v : Variant} {len : BitVec 128} {msg : Nat → Byte} {s : State}

/-- Before the steps left are used up the invocation is running. -/
theorem State.Invocation.run_before {k : Nat} (h : s.Invocation v) (hr : s.Runs v len msg) (hk : k < stepsLeft v s) :
    ∃ u, core.run k s = .next u ∧ u.Invocation v := by
  induction k generalizing s with
  | zero => exact ⟨s, rfl, h⟩
  | succ k ih =>
    obtain ⟨t, hst, hadv, hrt, ht⟩ := h.step hr
    have hleft : stepsLeft v t + 1 = stepsLeft v s := hadv.stepsLeft h.block
    rw [core_run_succ k hst]
    obtain ht | ht := ht
    · exact ih ht hrt (by omega)
    · rw [stepsLeft_idle ht.PHASE] at hleft
      omega

/-- An idle engine that still holds the parameters of an invocation has finished it: its length is no error, and its block count
is not that of a fresh state. -/
theorem State.Idle.finished (h : s.Idle v) (hr : s.Runs v len msg) (hlen : len.toNat ≤ v.LMAX) :
    s.DONE = true ∧ s.ERR = false := by
  have herr : s.ERR = false := by
    by_contra herr
    have hover : v.LMAX < s.L.toNat := h.error (by simpa using herr)
    rw [hr.L] at hover
    omega
  refine ⟨?_, herr⟩
  by_contra hdone
  obtain ⟨-, -, hNBLK, -⟩ := h.fresh (by simpa using hdone) herr
  have hzero : blockCount v len = 0 := by rw [← hr.NBLK, hNBLK]; rfl
  exact Nat.succ_ne_zero _ hzero

end Termination

/-- Settles O51: the steps left after acceptance are `NBLK * (2R + 3)`; the invocation runs until they are used up, and then it
has finished. -/
theorem invocationTerminatesExactly : Obligations.InvocationTerminatesExactly := by
  unfold Obligations.InvocationTerminatesExactly
  intro v s hbusy hheld hrst hturns hlen halign
  have hr : (s.started v).Runs v s.bitLength (Memory.read s.MSG) := started_runs hheld hrst rfl hlen fun _ _ => rfl
  have hinv : (s.started v).Invocation v := start_invocation (s := s.setTurns []) hlen halign
  have hsteps : stepsLeft v (s.started v) = (s.started v).NBLK.toNat * (2 * v.R + 3) := by
    rw [stepsLeft_started hr, refSteps, hr.NBLK]
  obtain ⟨t, hrun, hidle, hrt, -⟩ := hinv.run (P := fun _ => True) (fun _ _ => trivial) (fun _ _ _ _ _ => trivial) hr trivial
  obtain ⟨hdone, herr⟩ := hidle.finished hrt hlen
  refine ⟨s.started v, t, step_startsInvocation hbusy hheld hrst hturns hlen halign, hsteps ▸ hrun, hidle.BUSY, hdone, herr,
    hidle.PHASE, hidle.BIDX, hidle.T, fun k hk => ?_⟩
  obtain ⟨u, hu, hrunning⟩ := hinv.run_before hr (hsteps.symm ▸ hk)
  exact ⟨u, hu, hrunning.BUSY, hrunning.DONE⟩

end Sys2Proof.Machine
end

-- ==== Proofs: the exceptions (O14, O16, O17, O43, O50) ====
section
/-! The one error of the engine (spec/60_exceptions.md R240 to R247): the order in which a command is judged, when
`LengthOverflow` is raised and what it does, how long `ERR` stays, and that no reachable step fails. -/

namespace Sys2Proof

/-- A length is above `LMAX` when it does not fit the length field (R5). -/
theorem Variant.LMAX_lt_iff (v : Variant) (n : Nat) : v.LMAX < n ↔ 2 ^ v.lfb ≤ n := by
  have hpos := Nat.two_pow_pos v.lfb
  rw [Variant.LMAX]
  omega

theorem Variant.lfb_of_fam32 {v : Variant} (h : v.isFam64 = false) : v.lfb = 64 := by simp [Variant.lfb, h]

theorem Variant.lfb_of_fam64 {v : Variant} (h : v.isFam64 = true) : v.lfb = 128 := by simp [Variant.lfb, h]

end Sys2Proof

namespace Sys2Proof.Machine

open Sys2Proof Host

/-! ## What a command answers (R245) -/

section Command

variable {v : Variant} {s t : State}

theorem digestCommand_held (hbusy : s.BUSY = true) : digestCommand v s = .next (s.setHeld (some (commandWord v))) :=
  if_pos hbusy

/-- The length is judged before its alignment. -/
theorem digestCommand_overflows (hbusy : s.BUSY = false) (hover : v.LMAX < s.bitLength.toNat) :
    digestCommand v s = .next (s.accept v).raiseLengthOverflow := by
  simp [digestCommand, lengthOverflows, hbusy, hover]

theorem digestCommand_refused (hbusy : s.BUSY = false) (hlen : s.bitLength.toNat ≤ v.LMAX)
    (halign : s.bitLength.toNat % 8 ≠ 0) : digestCommand v s = .refused .unalignedLength := by
  simp [digestCommand, lengthOverflows, hbusy, Nat.not_lt.mpr hlen, halign]

/-- What raising `LengthOverflow` leaves alone (R241). -/
theorem overflow_frame (s : State) (v : Variant) :
    (s.accept v).raiseLengthOverflow.NBLK = s.NBLK ∧ s.KeepsPosition (s.accept v).raiseLengthOverflow ∧
      s.KeepsDatapath (s.accept v).raiseLengthOverflow ∧ s.KeepsLEN (s.accept v).raiseLengthOverflow ∧
      s.KeepsMSG (s.accept v).raiseLengthOverflow ∧ s.KeepsEnvironment (s.accept v).raiseLengthOverflow ∧
      (s.accept v).raiseLengthOverflow.msgReads = s.msgReads :=
  ⟨rfl, ⟨rfl, rfl, rfl⟩, ⟨rfl, rfl, rfl, rfl⟩, ⟨rfl, rfl, rfl, rfl⟩, fun _ => rfl, ⟨rfl, rfl, rfl, rfl, rfl⟩, rfl⟩

/-- Of the two states an accepted command can answer, `ERR` is 1 in that of a length above `LMAX` (R240). -/
theorem digestCommand_ERR_iff (hbusy : s.BUSY = false) (h : digestCommand v s = .next t) :
    t.ERR = true ↔ v.LMAX < s.bitLength.toNat := by
  obtain ⟨hbusy', -⟩ | ⟨-, hover, rfl⟩ | ⟨-, hlen, -, rfl⟩ := digestCommand_next h
  · cases hbusy.symm.trans hbusy'
  · exact iff_of_true rfl hover
  · exact iff_of_false Bool.false_ne_true (Nat.not_lt.mpr hlen)

/-- A command clears `ERR` by starting an invocation alone (R247). -/
theorem digestCommand_clears_ERR (h : digestCommand v s = .next t) (herr : s.ERR = true) (herr' : t.ERR = false) :
    t.VAR = v.code ∧ t.L = s.bitLength ∧ t.BUSY = true := by
  obtain ⟨-, rfl⟩ | ⟨-, -, rfl⟩ | ⟨-, -, -, rfl⟩ := digestCommand_next h
  · cases herr.symm.trans herr'
  · cases herr'
  · exact ⟨rfl, rfl, rfl⟩

/-- A write to `CMD` that is next and not kept waiting is made. -/
theorem step_writeCMD {ts : List Turn} {w : Word32} (hts : s.turns = .host (.write 0#5 w) :: ts) (hheld : s.held = none)
    (hrst : s.RST = false) : step s = writeCMD w (s.setTurns ts) := by
  rw [step_write hts hheld hrst, hostWrite, if_pos rfl]

theorem writeCMD_commandWord (v : Variant) (s : State) : writeCMD (commandWord v) s = digestCommand v s := by
  rw [writeCMD_of_ok (decodeCommand_commandWord v), exec_digest]

end Command

/-- Settles O14: a word that is no command word is reserved; a command answers by `BUSY`, then by the length, then by its
alignment. -/
theorem commandWriteJudgedInOrder : Obligations.CommandWriteJudgedInOrder := by
  unfold Obligations.CommandWriteJudgedInOrder
  intro s ts w hts hheld hrst
  rw [step_writeCMD hts hheld hrst]
  refine ⟨fun hnone => ?_, ?_⟩
  · obtain ⟨v, hv⟩ | hreserved := eq_commandWord_or_reserved w
    · exact absurd hv (hnone v)
    · exact writeCMD_of_reserved hreserved
  · rintro v rfl
    rw [writeCMD_commandWord]
    refine ⟨digestCommand_held (s := s.setTurns ts), fun hbusy hover => ?_, digestCommand_refused (s := s.setTurns ts),
      fun hbusy hlen halign => ?_⟩
    · exact ⟨_, digestCommand_overflows (s := s.setTurns ts) hbusy hover, rfl, rfl, rfl, rfl, hbusy, rfl, rfl, rfl⟩
    · exact ⟨_, digestCommand_starts (s := s.setTurns ts) hbusy hlen halign, rfl, rfl, rfl, rfl, rfl, rfl, rfl, rfl⟩

/-- Settles O16: the command answers the state with `ERR` raised, which shows no digest and leaves the rest alone. -/
theorem digestRaisesLengthOverflow : Obligations.DigestRaisesLengthOverflow := by
  unfold Obligations.DigestRaisesLengthOverflow
  intro v s hbusy hover
  have hBUSY : (s.accept v).raiseLengthOverflow.BUSY = false := hbusy
  have hstatus : (s.accept v).raiseLengthOverflow.status.toNat = 8 * v.code.toNat + 4 := by
    rw [status_toNat, hBUSY]
    rfl
  exact ⟨_, (exec_digest v s).trans (digestCommand_overflows hbusy hover), rfl, hBUSY, rfl, rfl, rfl, hstatus,
    dout_of_not_done rfl, overflow_frame s v⟩

/-! ## When the length overflows (R240) -/

/-- A value put below another, as a number. -/
theorem append_toNat {w n : Nat} (x : BitVec w) (y : BitVec n) : (x ++ y).toNat = x.toNat * 2 ^ n + y.toNat := by
  rw [BitVec.toNat_append, ← Nat.shiftLeft_add_eq_or_of_lt y.isLt, Nat.shiftLeft_eq]

/-- The length needs more than 64 bits when one of its upper two words is not 0. -/
theorem two_pow_64_le_bitLength_iff (s : State) :
    2 ^ 64 ≤ s.bitLength.toNat ↔ ¬(s.LEN3 = 0#32 ∧ s.LEN2 = 0#32) := by
  have h0 := s.LEN0.isLt
  have h1 := s.LEN1.isLt
  simp only [State.bitLength, append_toNat, ← BitVec.toNat_inj, BitVec.toNat_ofNat]
  omega

/-- Settles O17: `ERR` is 1 exactly above `LMAX`, which for the 32-bit family is a bound on the upper two words and for the
64-bit family on the width of the length itself. -/
theorem lengthOverflowExactly : Obligations.LengthOverflowExactly := by
  unfold Obligations.LengthOverflowExactly
  intro v s t hbusy hex
  have herr : t.ERR = true ↔ 2 ^ v.lfb ≤ s.bitLength.toNat :=
    (digestCommand_ERR_iff hbusy (exec_digest v s ▸ hex)).trans (v.LMAX_lt_iff _)
  refine ⟨herr, fun h32 => ?_, fun h64 => ?_⟩
  · rw [herr, Variant.lfb_of_fam32 (Variant.isFam64_eq_false h32), two_pow_64_le_bitLength_iff]
  · rw [← Bool.not_eq_true, herr, Variant.lfb_of_fam64 h64, Nat.not_le]
    exact s.bitLength.isLt

/-! ## How long `ERR` stays (R247) -/

/-- No micro-operation touches `ERR`. -/
theorem exec_micro_ERR {i : Instr} {s t : State} (hi : i.isMicroOp = true) (h : exec i s = .next t) : t.ERR = s.ERR := by
  cases i with
  | digestSha1 | digestSha224 | digestSha256 | digestSha384 | digestSha512 => cases hi
  | padblk => cases h; rfl
  | ldv => cases h; exact (setV_setSEQ_keepsRest ..).flags.ERR
  | wld32 | wld64 | wexpSha1 | wexpS256 | wexpS512 => cases h; exact (writeSched_keepsRest ..).flags.ERR
  | rndSha1Ch | rndSha1Par1 | rndSha1Maj | rndSha1Par2 | rndS256 | rndS512 =>
    cases h; exact (setV_nextRound_keepsRest ..).flags.ERR
  | acc v =>
    obtain ⟨-, herr, -⟩ := execAcc_frame (exec_acc v s ▸ h)
    exact herr

/-- Settles O43: of all steps only the release of `rst` and a command that starts an invocation clear `ERR`. -/
theorem errorStaysUntilNextCommand : Obligations.ErrorStaysUntilNextCommand := by
  unfold Obligations.ErrorStaysUntilNextCommand
  intro s t herr hst herr'
  have hne : t.ERR ≠ s.ERR := by simp [herr, herr']
  cases step_cases hst with
  | releaseRst ts hts hrst => exact .inl (by simp [State.resetNext, hts, hrst])
  | command ts w v _ _ hw hd hex =>
    obtain ⟨hVAR, hL, hBUSY⟩ := digestCommand_clears_ERR hex herr herr'
    exact .inr ⟨v, hVAR, hL, hBUSY, (decodeCommand_eq_digestInstr_iff.mp hd ▸ hw).source⟩
  | micro ts i _ _ _ hd _ hex => exact absurd (exec_micro_ERR (decodeStepWord_isMicroOp hd) hex) hne
  | len ts n x => exact absurd (by simp) hne
  | assertRst | noEffect | readInReset | idle | discard | read | place => exact absurd rfl hne

/-! ## No reachable step fails (R243) -/

/-- From `s` the outcome is a next state, or the refusal of a command whose length is not a whole number of bytes (R118). -/
def State.Completes (s : State) (o : Outcome State Fault Refusal) : Prop :=
  (∃ t, o = .next t) ∨ (o = .refused .unalignedLength ∧ s.BUSY = false ∧ s.bitLength.toNat % 8 ≠ 0)

section Completes

variable {s : State}

theorem digestCommand_completes (v : Variant) (s : State) : s.Completes (digestCommand v s) := by
  cases hbusy : s.BUSY with
  | true => exact .inl ⟨_, digestCommand_held hbusy⟩
  | false =>
    obtain hover | hlen := Nat.lt_or_ge v.LMAX s.bitLength.toNat
    · exact .inl ⟨_, digestCommand_overflows hbusy hover⟩
    · by_cases halign : s.bitLength.toNat % 8 = 0
      · exact .inl ⟨_, digestCommand_starts hbusy hlen halign⟩
      · exact .inr ⟨digestCommand_refused hbusy hlen halign, hbusy, halign⟩

theorem writeCMD_completes (w : Word32) (s : State) : s.Completes (writeCMD w s) := by
  obtain ⟨v, rfl⟩ | hreserved := eq_commandWord_or_reserved w
  · exact writeCMD_commandWord v s ▸ digestCommand_completes v s
  · exact .inl ⟨s, writeCMD_of_reserved hreserved⟩

theorem hostAccess_completes (a : Access) (s : State) : s.Completes (hostAccess a s) := by
  cases a with
  | read | place => exact .inl ⟨_, rfl⟩
  | write n x =>
    by_cases hn : n = 0#5
    · rw [hostAccess, hostWrite, if_pos hn]
      exact writeCMD_completes x s
    · exact .inl ⟨_, hostWrite_of_ne_zero hn⟩

/-- With the invariant the engine's turn finds a micro-operation, which completes, or an idle engine. -/
theorem State.Inv.engineTurn_next (h : s.Inv) : ∃ t, engineTurn s = .next t := by
  by_cases hp : s.PHASE = phaseIDLE
  · exact ⟨s, if_pos hp⟩
  · obtain ⟨v, hv⟩ := h.invocation hp
    obtain ⟨i, -, hd, -⟩ := hv.advances
    rw [engineTurn_micro hp hd]
    exact exec_micro_next (decodeStepWord_isMicroOp hd) s.nextTick

theorem State.Inv.engineTurnTaken (h : s.Inv) : s.engineTurnTaken.Inv := by
  obtain ⟨ts, hs⟩ := s.engineTurnTaken_eq
  exact hs ▸ h.setTurns ts

theorem State.Inv.heldTurn_completes (h : s.Inv) (w : Word32) : s.Completes (heldTurn w s) := by
  unfold heldTurn
  split
  · exact .inl h.engineTurnTaken.engineTurn_next
  · exact writeCMD_completes w (s.setHeld none)

theorem State.Inv.freeTurn_completes (h : s.Inv) : s.Completes (freeTurn s) := by
  unfold freeTurn
  split
  case h_1 a ts _ => exact hostAccess_completes a (s.setTurns ts)
  case h_2 => exact .inl h.engineTurnTaken.engineTurn_next

/-- With the invariant a step is an edge of `rst`, a turn while `rst` is asserted, the held command's or the next in the list. -/
theorem State.Inv.step_completes (h : s.Inv) : s.Completes (step s) := by
  unfold step takeTurn
  split
  case isTrue => exact .inl ⟨_, rfl⟩
  case isFalse =>
    split
    case isTrue => exact .inl ⟨_, rfl⟩
    case isFalse =>
      split
      case h_1 w _ => exact h.heldTurn_completes w
      case h_2 => exact h.freeTurn_completes

end Completes

/-- Settles O50: a reachable state meets the invariant. -/
theorem reachableStepCompletes : Obligations.ReachableStepCompletes := by
  unfold Obligations.ReachableStepCompletes
  exact fun s hs => hs.inv.step_completes

end Sys2Proof.Machine
end

-- ==== Proofs: reset while turns wait (O8, O60) ====
section
/-! The input `rst` (spec/70_reset_and_hazards.md R270, R271): what one turn does while it is asserted, what any turns up to the
release leave of the state, and the values after the release. -/

namespace Sys2Proof.Machine

open Sys2Proof Host

/-! ## The release -/

/-- The release gives every piece of engine state the value of R48. -/
theorem afterReset_hasResetValues (s : State) : s.afterReset.HasResetValues where
  BUSY := rfl
  DONE := rfl
  ERR := rfl
  PHASE := rfl
  BIDX := rfl
  T := rfl
  VAR := rfl
  L := rfl
  NBLK := rfl
  LEN0 := rfl
  LEN1 := rfl
  LEN2 := rfl
  LEN3 := rfl
  H := elemAt_uniformFile 8
  V := elemAt_uniformFile 8
  W := elemAt_uniformFile 80
  M := byteAt_uniformFile 128

/-! ## What a read returns while `rst` is asserted -/

/-- Bit 1 of `STATUS` is `DONE` (R112). -/
theorem status_getLsbD_one (s : State) : s.status.getLsbD 1 = s.DONE := by
  simp only [State.status, BitVec.getLsbD_setWidth, BitVec.getLsbD_append]
  simp

/-- What R271, R203 and R204 settle of the answer `r` to a read made after `rst` was asserted in `s`: a `DOUT` register reads 0 if
`DONE` was 0 or if it is past the digest, and the `DONE` bit reads 0 if it was. -/
def State.AnsweredInReset (s : State) (r : BitVec 5 × Word32) : Prop :=
  (8 ≤ r.1.toNat → (s.DONE = false ∨ ∃ v, s.variant? = some v ∧ v.doutCount ≤ r.1.toNat - 8) → r.2 = 0#32) ∧
  (s.DONE = false → r.1 = 1#5 → r.2.getLsbD 1 = false)

/-- The answer depends on `DONE` and `VAR` alone. -/
theorem State.AnsweredInReset.of_same {s t : State} {r : BitVec 5 × Word32} (h : t.AnsweredInReset r) (hD : t.DONE = s.DONE)
    (hV : t.VAR = s.VAR) : s.AnsweredInReset r := by
  have hv : t.variant? = s.variant? := by rw [State.variant?, State.variant?, hV]
  simpa only [State.AnsweredInReset, hD, hv] using h

theorem inDigest_past_digest {s : State} {v : Variant} {j : Nat} (hv : s.variant? = some v) (hj : v.doutCount ≤ j) :
    s.inDigest j = false := by
  simp [State.inDigest, hv, hj]

/-- A register that reads 0 reads 0 also while `rst` is asserted, if it is no `DOUT` register of a digest that was there. -/
theorem readInReset_eq_zero {s : State} {n : BitVec 5} (h8 : 8 ≤ n.toNat)
    (h : s.DONE = false ∨ s.inDigest (n.toNat - 8) = false) : s.readInReset n = 0#32 := by
  obtain ⟨m, hm⟩ := readInReset_and s n (h.imp_right (.inr ∘ .inr))
  have hdout : s.dout (n.toNat - 8) = 0#32 := h.elim (fun hd => dout_of_not_done hd _) dout_past_digest
  rw [hm, hostRead_outside_LEN (.inr (by omega)), hdout, ite_self, BitVec.zero_and]

theorem readInReset_answered (s : State) (n : BitVec 5) : s.AnsweredInReset (n, s.readInReset n) := by
  refine ⟨fun h8 h => readInReset_eq_zero h8 (h.imp_right fun ⟨v, hv, hj⟩ => inDigest_past_digest hv hj), ?_⟩
  rintro hd (rfl : n = 1#5)
  obtain ⟨m, hm⟩ := readInReset_and s 1#5 (.inl hd)
  have hstatus : s.hostRead 1#5 = s.status := rfl
  rw [hm, BitVec.getLsbD_and, hstatus, status_getLsbD_one, hd, Bool.false_and]

/-! ## The turns up to the release -/

/-- `t` is what the turns `us`, taken while `rst` is asserted, leave of `s`: the flag `DONE` and `VAR` are as before, the engine has
read no byte of the message, the message changes by the placing of bytes alone, and the reads made meanwhile are answered. -/
structure State.WaitsInReset (s : State) (us : List Turn) (t : State) : Prop where
  RST : t.RST = true
  DONE : t.DONE = s.DONE
  VAR : t.VAR = s.VAR
  msgReads : t.msgReads = s.msgReads
  msg : (∀ a b, .host (.place a b) ∉ us) → s.KeepsMSG t
  reads : ∃ rs, t.reads = s.reads ++ rs ∧ ∀ r ∈ rs, s.AnsweredInReset r

section Waiting

variable {s t : State} {us ts : List Turn} {u : Turn}

theorem State.WaitsInReset.refl (hr : s.RST = true) : s.WaitsInReset [] s :=
  ⟨hr, rfl, rfl, rfl, fun _ _ => rfl, [], by simp⟩

theorem State.WaitsInReset.cons {m : State} (h : s.WaitsInReset [u] m) (h' : m.WaitsInReset us t) :
    s.WaitsInReset (u :: us) t := by
  obtain ⟨rs, hrs, ha⟩ := h.reads
  obtain ⟨rs', hrs', ha'⟩ := h'.reads
  refine ⟨h'.RST, h'.DONE.trans h.DONE, h'.VAR.trans h.VAR, h'.msgReads.trans h.msgReads, fun hno a => ?_,
    rs ++ rs', by rw [hrs', hrs, List.append_assoc], fun r hmem => ?_⟩
  · have hu : s.KeepsMSG m := h.msg fun a b => by simpa using (List.ne_and_not_mem_of_not_mem_cons (hno a b)).1
    have hus : m.KeepsMSG t := h'.msg fun a b => (List.ne_and_not_mem_of_not_mem_cons (hno a b)).2
    exact (hus a).trans (hu a)
  · obtain hr | hr := List.mem_append.mp hmem
    · exact ha r hr
    · exact (ha' r hr).of_same h.DONE h.VAR

/-- A turn that neither reads nor places a byte leaves all of it as it is. -/
theorem State.WaitsInReset.of_silent (hr : t.RST = true) (hD : t.DONE = s.DONE) (hV : t.VAR = s.VAR) (hM : t.MSG = s.MSG)
    (hreads : t.reads = s.reads) (hmr : t.msgReads = s.msgReads) : s.WaitsInReset us t :=
  ⟨hr, hD, hV, hmr, fun _ a => by rw [hM], [], by simp [hreads]⟩

/-- An engine turn is used up without a step (R270). -/
theorem step_engineTurn_inReset (hts : s.turns = .engine :: ts) (hr : s.RST = true) : step s = .next (s.setTurns ts) := by
  rw [step_engine_inReset (.inr ⟨ts, hts⟩) hr, State.engineTurnTaken, hts]

/-- While `rst` is asserted every turn but its release is taken, and the engine keeps waiting. -/
theorem step_waitsInReset (hts : s.turns = u :: ts) (hu : u ≠ .releaseRst) (hr : s.RST = true) :
    ∃ t, step s = .next t ∧ t.turns = ts ∧ s.WaitsInReset [u] t := by
  cases u with
  | engine => exact ⟨_, step_engineTurn_inReset hts hr, rfl, .of_silent hr rfl rfl rfl rfl rfl⟩
  | assertRst => exact ⟨_, step_assertRst hts, rfl, .of_silent rfl rfl rfl rfl rfl rfl⟩
  | releaseRst => exact absurd rfl hu
  | host a =>
    refine ⟨_, step_host_inReset hts hr, ?_⟩
    cases a with
    | write n x => exact ⟨rfl, .of_silent hr rfl rfl rfl rfl rfl⟩
    | place a b => exact ⟨rfl, hr, rfl, rfl, rfl, fun hno => absurd List.mem_cons_self (hno a b), [], by simp [accessInReset]⟩
    | read n =>
      refine ⟨rfl, hr, rfl, rfl, rfl, fun _ _ => rfl, _, rfl, fun r hmem => ?_⟩
      obtain rfl := List.mem_singleton.mp hmem
      exact readInReset_answered (s.setTurns ts) n

/-- The run up to the release answers the state it gives. -/
theorem run_to_release (hts : s.turns = us ++ .releaseRst :: ts) (hus : .releaseRst ∉ us) (hr : s.RST = true) :
    ∃ t, core.run (us.length + 1) s = .next (t.setTurns ts).afterReset ∧ s.WaitsInReset us t := by
  induction us generalizing s with
  | nil => exact ⟨s, core_run_succ 0 (step_releaseRst hts hr), .refl hr⟩
  | cons u us ih =>
    obtain ⟨hu, hus⟩ := List.ne_and_not_mem_of_not_mem_cons hus
    obtain ⟨m, hst, hm, hw⟩ := step_waitsInReset hts hu.symm hr
    obtain ⟨t, hrun, hw'⟩ := ih hm hus hw.RST
    exact ⟨t, (core_run_succ _ hst).trans hrun, hw.cons hw'⟩

/-- In every state of that run `DONE` stays 0. -/
theorem run_to_release_DONE {k : Nat} (hts : s.turns = us ++ .releaseRst :: ts) (hus : .releaseRst ∉ us) (hr : s.RST = true)
    (hD : s.DONE = false) (hk : k ≤ us.length + 1) (hrun : core.run k s = .next t) : t.DONE = false := by
  induction k generalizing s us with
  | zero =>
    cases hrun
    exact hD
  | succ k ih =>
    cases us with
    | nil =>
      obtain rfl : k = 0 := by simpa using hk
      rw [core_run_succ 0 (step_releaseRst hts hr)] at hrun
      cases hrun
      rfl
    | cons u us =>
      obtain ⟨hu, hus⟩ := List.ne_and_not_mem_of_not_mem_cons hus
      obtain ⟨m, hst, hm, hw⟩ := step_waitsInReset hts hu.symm hr
      rw [core_run_succ k hst] at hrun
      exact ih hm hus hw.RST (hw.DONE.trans hD) (Nat.le_of_succ_le_succ hk) hrun

end Waiting

/-- Settles O8: the assertion keeps all but the held command; the turns up to the release leave the engine waiting; and the release
gives the reset values. -/
theorem resetTurnLosesTheInvocation : Obligations.ResetTurnLosesTheInvocation := by
  unfold Obligations.ResetTurnLosesTheInvocation
  intro s us ts hts hus
  have hassert : step s = .next (s.setTurns (us ++ .releaseRst :: ts)).assertReset := step_assertRst hts
  have hturns : (s.setTurns (us ++ .releaseRst :: ts)).assertReset.turns = us ++ .releaseRst :: ts := rfl
  refine ⟨⟨_, hassert, rfl⟩, ?_, fun hD k u hk hrun => ?_⟩
  · obtain ⟨t, hrun, hw⟩ := run_to_release hturns hus rfl
    obtain ⟨rs, hrs, ha⟩ := hw.reads
    exact ⟨_, rs, (core_run_succ _ hassert).trans hrun, afterReset_hasResetValues _, rfl, rfl, rfl, hrs, hw.msgReads, ha,
      hw.msg⟩
  · cases k with
    | zero =>
      cases hrun
      exact hD
    | succ k =>
      rw [core_run_succ k hassert] at hrun
      exact run_to_release_DONE hturns hus rfl hD (Nat.le_of_succ_le_succ hk) hrun

/-- Settles O60: the edges of `rst` come whatever else is waiting, and between them an engine turn and a host write are used up. -/
theorem assertedResetStopsTheEngine : Obligations.AssertedResetStopsTheEngine := by
  unfold Obligations.AssertedResetStopsTheEngine
  intro s ts
  refine ⟨fun hts => ⟨_, step_assertRst hts, rfl, rfl⟩, fun hr => ⟨fun hts => ?_, fun hts => step_engineTurn_inReset hts hr,
    fun n x hts => step_host_inReset hts hr, fun hts => ⟨_, step_releaseRst hts hr, afterReset_hasResetValues _, rfl, rfl⟩⟩⟩
  rw [step_engine_inReset (.inl hts) hr, State.engineTurnTaken_alone hts]

end Sys2Proof.Machine
end
